-- ==== Sys2Proof/Word.lean ====
section
/-! DEFINITION. The fixed-width values of the block: octets, 16-bit checksums, 32-bit registers (spec/00_scope.md R8, R9). -/

namespace Sys2Proof

/-- `u8`, one octet of a buffer or of a frame (R8). -/
abbrev Byte := BitVec 8

/-- `u16`, the width of a checksum (R8, R81). -/
abbrev Half := BitVec 16

/-- `u32`, the width of a register and of a sequence number (R8, R22). -/
abbrev Word := BitVec 32

end Sys2Proof
end

