-- ==== Sys2Proof/Config.lean ====
section
/-! DEFINITION. The parameters of the block (R7), the platform's open parameters (U11), and the free values the spec leaves open. -/

namespace Sys2Proof

/-- `HDR_LEN`, the octets of a frame header (R7, R81). -/
abbrev hdrLen : Nat := 64

/-- The two parameters of the block that the spec leaves open (R7, U1, U2). They are plain data of the state, so a statement
about every state is a statement about every value of them. -/
structure Params where
  /-- `MAX_PAYLOAD`, the largest DATA payload in octets -/
  maxPayload : Nat
  /-- `W_RAND`, the width of one random draw in bits -/
  wRand : Nat
deriving DecidableEq, Repr

namespace Params

/-- `IN_BUF_SIZE` (R7). -/
def inBufSize (p : Params) : Nat := hdrLen + p.maxPayload

/-- `OUT_BUF_SIZE` (R7). -/
def outBufSize (p : Params) : Nat := hdrLen + p.maxPayload

/-- The ranges R7 gives the parameters. The upper bound on MAX_PAYLOAD is DEDUCED (log entry 3): every length up to a
buffer's size fits the 32-bit registers that hold lengths (R8, R28, R37). -/
abbrev legal (p : Params) : Prop :=
  1 ≤ p.maxPayload ∧ p.inBufSize < 2 ^ 32 ∧ 1 ≤ p.wRand ∧ p.wRand ≤ 31

/-- DESIGN CHOICE (log entry 2): the parameters of `State.reset`, those of spec/95_test_vectors.md. -/
def reference : Params := { maxPayload := 512, wRand := 31 }

end Params

namespace Config

/-- The random source (R14, R43): the answer to the n-th `draw()`, before its width is cut to W_RAND bits. No body: any value
(log entry 7). -/
opaque rawDraw : Nat → Nat

/-- What a host read of an IN_BUF octet that nothing has written since reset returns (U3). No body: any value. -/
opaque unwrittenIn : Nat → Byte

/-- What a host read of an OUT_BUF octet that nothing has written since reset returns (U3). No body: any value. -/
opaque unwrittenOut : Nat → Byte

/-- PENDING after the reset input moved (R42, U13). No body: any value. -/
opaque resetPending : Nat → BitVec 4

/-- What a host-side expression yields where the spec states no value for it (R9, R94; log entry 19). No body: any value. -/
opaque unstated : Nat → Nat

/-- `REG_BASE`, the platform's (R69, U11). No rule of the block depends on it. -/
opaque regBase : Nat

/-- `IN_BASE`, the platform's (R69, U11). -/
opaque inBase : Nat

/-- `OUT_BASE`, the platform's (R69, U11). -/
opaque outBase : Nat

/-- `BUS_LANE_ORDER`, the platform's (R65, U11): the byte of a register that a byte lane of the host bus carries. -/
opaque busLaneOrder : Fin 4 → Fin 4

/-- Where the platform sees register offset `off` (R69). -/
def regAddress (off : Nat) : Nat := regBase + off

/-- Where the platform sees `InBuf[i]` (R69). -/
def inAddress (i : Nat) : Nat := inBase + i

/-- Where the platform sees `OutBuf[i]` (R69). -/
def outAddress (i : Nat) : Nat := outBase + i

/-- The octet of a register value on a byte lane (R65). -/
def laneByte (v : Word) (lane : Fin 4) : Byte := v.extractLsb' (8 * (busLaneOrder lane).val) 8

/-- `draw()` (R14): an integer `r` with `0 ≤ r < 2^W_RAND`. -/
def draw (p : Params) (n : Nat) : Nat := rawDraw n % 2 ^ p.wRand

end Config

end Sys2Proof
end

