-- ==== Sys2Proof/Machine/Types.lean ====
section
/-! DEFINITION. The block's vocabulary of names: frame kinds, error codes, phases, registers, host accesses, the turns of the agents. -/

namespace Sys2Proof

/-- The three frame kinds of the wire format (R83); NONE of RES_KIND is the absence of one (R31). -/
inductive FrameKind where
  | data
  | ack
  | eof
deriving DecidableEq, Repr

/-- A decoded frame, the tuple `(kind, sequenceNumber, checksum, payload)` of R141. -/
structure Frame where
  kind    : FrameKind
  seq     : Word
  csum    : Half
  payload : List Byte
deriving DecidableEq, Repr

/-- The ways a frame fails to decode (R87, R141). -/
inductive FrameError where
  | malformedShort
  | malformedDigit
  | unknownFrameType
deriving DecidableEq, Repr

/-- The error codes of STATUS.ERRCODE (R220). Codes 8 to 15 are never written (U7), so they are no constructors. -/
inductive ErrCode where
  | none
  | malformedShort
  | malformedDigit
  | unknownFrameType
  | corruptedSegment
  | invalidConfiguration
  | lengthError
  | illegalCommand
deriving DecidableEq, Repr

/-- The engine's phase (R42, R110). -/
inductive Phase where
  | idle
  | busy
deriving DecidableEq, Repr

/-- The sixteen registers of the register space (R22). -/
inductive Reg where
  | cmd
  | status
  | argSeq
  | argCsum
  | inLen
  | outLen
  | resSeq
  | resCsum
  | resKind
  | resPlen
  | lossMode
  | lossThresh
  | lossPeriod
  | lossCount
  | paramMaxpl
  | paramWrand
deriving DecidableEq, Repr

/-- One host access (R60). `outWrite` is the access R60 and R117 say has no effect. -/
inductive Access where
  | regRead  (off : Nat)
  | regWrite (off : Nat) (v : Word)
  | inRead   (i : Nat)
  | inWrite  (i : Nat) (v : Byte)
  | outRead  (i : Nat)
  | outWrite (i : Nat) (v : Byte)
deriving DecidableEq, Repr

/-- Whose event comes next in the total order of R71; the last two move the reset input (R250). -/
inductive Turn where
  | host
  | engine
  | assertReset
  | releaseReset
deriving DecidableEq, Repr

namespace Machine

/-- An expression of a host script, on unbounded naturals (R94). A comparison yields 1 or 0. -/
inductive Expr where
  | const (n : Nat)
  | name  (x : Nat)
  | add   (a b : Expr)
  | sub   (a b : Expr)
  | mod   (a b : Expr)
  | slice (a : Expr) (hi lo : Nat)
  | eq    (a b : Expr)
  | lt    (a b : Expr)
  | le    (a b : Expr)
deriving DecidableEq, Repr

/-- A line of a host script (R94). Host names and labels are numbers; `WR`, `RD`, `WB` and `RB` take the offset or the
index of the bus access they perform, so that a script can also reach an offset that names no register (R62). -/
inductive Stmt where
  | regWrite (off v : Expr)
  | regRead  (off : Expr) (x : Nat)
  | inWrite  (i v : Expr)
  | inRead   (i : Expr) (x : Nat)
  | outRead  (i : Expr) (x : Nat)
  | outWrite (i v : Expr)
  | set      (x : Nat) (e : Expr)
  | label    (l : Nat)
  | ifGoto   (c : Expr) (l : Nat)
  | stop
deriving DecidableEq, Repr

end Machine

end Sys2Proof
end

