-- ==== Sys2Proof/Syntax.lean ====
section
/-! DEFINITION. The instructions: one constructor for each row of spec/opcode_table.json (R83, R91). -/

namespace Sys2Proof

/-- The eight commands take every operand from registers and IN_BUF (R92), so they carry none. A wire frame is the
instruction its type tag names (R83); its operands are the header fields and, for DATA, the payload (R81). -/
inductive Instr where
  /-- ENC_DATA (R130) -/
  | encData
  /-- ENC_ACK (R131) -/
  | encAck
  /-- ENC_EOF (R132) -/
  | encEof
  /-- DECODE (R140) -/
  | decode
  /-- CSUM_COMPUTE (R170) -/
  | csumCompute
  /-- CSUM_VALIDATE (R171) -/
  | csumValidate
  /-- LOSS_GATE (R190) -/
  | lossGate
  /-- RX_FRAME (R200) -/
  | rxFrame
  /-- FRAME_DATA, a frame with the DATA tag (R83, R141) -/
  | frameData (seq : Word) (csum : Half) (payload : List Byte)
  /-- FRAME_ACK, a frame with the ACK tag; `csum` is its checksum field, which a decoder reports (R84) -/
  | frameAck (seq : Word) (csum : Half)
  /-- FRAME_EOF, a frame with the EOF tag (R83, R85) -/
  | frameEof (seq : Word) (csum : Half)
deriving DecidableEq, Repr

end Sys2Proof
end

