-- ==== Sys2Proof/WellFormed.lean ====
section
/-! DEFINITION. Which instructions the wire format can carry, which fit the block, and which host scripts R94's notation allows. -/

namespace Sys2Proof

/-- The valid tuples of R142: an encoder writes the checksum field of ACK and EOF frames as zero (R84, R135). -/
def Instr.wellFormed : Instr → Bool
  | .encData | .encAck | .encEof | .decode | .csumCompute | .csumValidate | .lossGate | .rxFrame => true
  | .frameData _ _ _ => true
  | .frameAck _ csum => csum == 0
  | .frameEof _ csum => csum == 0

/-- The frame fits the buffers: a DATA payload is at most MAX_PAYLOAD octets (R7, R130). -/
def Instr.fits (p : Params) : Instr → Bool
  | .encData | .encAck | .encEof | .decode | .csumCompute | .csumValidate | .lossGate | .rxFrame => true
  | .frameData _ _ payload => decide (payload.length ≤ p.maxPayload)
  | .frameAck _ _ => true
  | .frameEof _ _ => true

namespace Machine

/-- Every slice `[hi:lo]` names its bits from high to low (R9). -/
def Expr.wellFormed : Expr → Bool
  | .const _ | .name _ => true
  | .add a b | .sub a b | .mod a b | .eq a b | .lt a b | .le a b => a.wellFormed && b.wellFormed
  | .slice a hi lo => a.wellFormed && decide (lo ≤ hi)

/-- The labels a script defines, in order (R94). -/
def scriptLabels : List Stmt → List Nat
  | [] => []
  | .label l :: rest => l :: scriptLabels rest
  | _ :: rest => scriptLabels rest

/-- A line is well formed in a script with these labels: its slices are, and its GOTO has a target (R94). -/
def Stmt.wellFormed (labels : List Nat) : Stmt → Bool
  | .regWrite a b | .inWrite a b | .outWrite a b => a.wellFormed && b.wellFormed
  | .regRead a _ | .inRead a _ | .outRead a _ | .set _ a => a.wellFormed
  | .ifGoto c l => c.wellFormed && labels.contains l
  | .label _ | .stop => true

/-- A host script is well formed: its labels are distinct and every line is (R94, R95's "a fresh label"). -/
def scriptWellFormed (script : List Stmt) : Bool :=
  decide (scriptLabels script).Nodup && script.all (Stmt.wellFormed (scriptLabels script))

end Machine

end Sys2Proof
end

