-- ==== Sys2Proof/Decode.lean ====
section
/-! DEFINITION. The two encodings of the block and their decoders: the wire frame (R80 to R89, R135, R141) and the
command word (R90, R91, R93); then the encoder. -/

namespace Sys2Proof

/-! ### Octet sequences and digit octets -/

/-- `B[i..j)` (R11). -/
def slice (B : List Byte) (i j : Nat) : List Byte := (B.drop i).take (j - i)

/-- `ascii('0') = 0x30`, `ascii('1') = 0x31` (R15). UNVERIFIED, by the spec's own note (log entry 16). -/
def ascii (b : Bool) : Byte := if b then 0x31 else 0x30

/-- `isdigit(b)` (R15). -/
def isDigit (b : Byte) : Bool := b == 0x30 || b == 0x31

/-- `digit(b)` of a digit octet (R15). Every use has checked `isDigit`, outside which R15 leaves it undefined. -/
def digit (b : Byte) : Nat := if b = 0x31 then 1 else 0

/-- The digit octets of a value, most significant bit first: `[ascii(v[w-1-j]) for j = 0 .. w-1]` (R82). -/
def digits {w : Nat} (v : BitVec w) : List Byte :=
  (List.range w).map fun j => ascii (v.getLsbD (w - 1 - j))

/-- The value digit octets spell: `sum over j of digit(F[j]) · 2^(len-1-j)` (R82). -/
def fieldValue : List Byte → Nat
  | [] => 0
  | b :: rest => digit b * 2 ^ rest.length + fieldValue rest

/-! ### The wire frame -/

/-- The 16-bit value a tag's digits spell (R83, last column). -/
def FrameKind.tagValue : FrameKind → Half
  | .data => 0x5555
  | .ack => 0xAAAA
  | .eof => 0x0000

/-- The 16 tag octets `F[48..64)` of a kind (R83). -/
def FrameKind.tag (k : FrameKind) : List Byte := digits k.tagValue

/-- The kind whose tag these octets are, octet for octet (R83). -/
def classifyTag (T : List Byte) : Option FrameKind :=
  if T = FrameKind.data.tag then some .data
  else if T = FrameKind.ack.tag then some .ack
  else if T = FrameKind.eof.tag then some .eof
  else none

/-- `hdr(s, c, T)` (R82), for every tag string `T` of 16 digit characters, given as the 16-bit value they spell most
significant first (R83). -/
def hdr (s : Word) (c : Half) (T : Half) : List Byte := digits s ++ digits c ++ digits T

/-- `encode_frame(kind, s, c, P)` (R135). -/
def encodeFrame (kind : FrameKind) (s : Word) (c : Half) (P : List Byte) : List Byte :=
  match kind with
  | .data => hdr s c FrameKind.data.tagValue ++ P
  | .ack => hdr s 0 FrameKind.ack.tagValue
  | .eof => hdr s 0 FrameKind.eof.tagValue

/-- `decode_frame(F)`, its checks in R141's order: length, tag, digits. -/
def decodeFrame (F : List Byte) : Except FrameError Frame :=
  if F.length < hdrLen then .error .malformedShort
  else
    match classifyTag (slice F 48 64) with
    | none => .error .unknownFrameType
    | some kind =>
      if (slice F 0 48).all isDigit then
        .ok { kind := kind
              seq := BitVec.ofNat 32 (fieldValue (slice F 0 32))
              csum := BitVec.ofNat 16 (fieldValue (slice F 32 48))
              payload := if kind = .data then F.drop 64 else [] }
      else .error .malformedDigit

/-- The instruction a decoded frame is. -/
def Frame.toInstr (f : Frame) : Instr :=
  match f.kind with
  | .data => .frameData f.seq f.csum f.payload
  | .ack => .frameAck f.seq f.csum
  | .eof => .frameEof f.seq f.csum

/-! ### The command word -/

/-- The opcode map: a word is legal iff it equals one of 0x00000001 to 0x00000008 (R91). -/
def decodeCommand (w : Word) : Option Instr :=
  match w.toNat with
  | 1 => some .encData
  | 2 => some .encAck
  | 3 => some .encEof
  | 4 => some .decode
  | 5 => some .csumCompute
  | 6 => some .csumValidate
  | 7 => some .lossGate
  | 8 => some .rxFrame
  | _ => none

/-! ### Both encodings -/

/-- What carries an instruction: a command word written to CMD, or the octets of a frame. -/
inductive Encoding where
  | command (w : Word)
  | frame (octets : List Byte)
deriving DecidableEq, Repr

/-- Why an encoding is no instruction (R87, R93). -/
inductive DecodeReject where
  | illegalCommand
  | badFrame (e : FrameError)
deriving DecidableEq, Repr

/-- The decoder, total on every command word and every octet sequence. -/
def decode : Encoding → Except DecodeReject Instr
  | .command w =>
    match decodeCommand w with
    | some i => .ok i
    | none => .error .illegalCommand
  | .frame F =>
    match decodeFrame F with
    | .ok f => .ok f.toInstr
    | .error e => .error (.badFrame e)

/-- The encoder: command words from R91, frames from R135. -/
def encode : Instr → Encoding
  | .encData => .command 0x00000001
  | .encAck => .command 0x00000002
  | .encEof => .command 0x00000003
  | .decode => .command 0x00000004
  | .csumCompute => .command 0x00000005
  | .csumValidate => .command 0x00000006
  | .lossGate => .command 0x00000007
  | .rxFrame => .command 0x00000008
  | .frameData s c P => .frame (encodeFrame .data s c P)
  | .frameAck s c => .frame (encodeFrame .ack s c [])
  | .frameEof s c => .frame (encodeFrame .eof s c [])

/-- A row of spec/opcode_table.json as an encoding. A 32-bit row is a command word. A 16-bit row is the type tag of a
frame, bit 15 its first octet (R83); the header's other 48 logical bits (R81) are zero and there is no payload;
DEDUCED (log entry 11). -/
def tableEncoding (nbits w : Nat) : Option Encoding :=
  if nbits = 32 ∧ w < 2 ^ 32 then some (.command (BitVec.ofNat 32 w))
  else if nbits = 16 ∧ w < 2 ^ 16 then
    some (.frame (hdr 0 0 (BitVec.ofNat 16 w)))
  else none

/-- The instruction the decoder reads from a row of spec/opcode_table.json. -/
def decodeTableWord (nbits w : Nat) : Option Instr :=
  match tableEncoding nbits w with
  | none => none
  | some e =>
    match decode e with
    | .ok i => some i
    | .error _ => none

end Sys2Proof
end

