-- ==== Sys2Proof/Machine/State.lean ====
section
/-! DEFINITION. Everything the spec gives the block (spec/10_state.md), the host that drives it, and the state after reset. -/

namespace Sys2Proof.Machine

/-- A buffer: the octets written since reset, by index. An index that is not listed holds no value (R44, U3). -/
abbrev Memory := List Host.Cell

/-- The host as an agent (R21, R94): its script, the line it is at, and the values of its names. -/
structure HostAgent where
  script : List Stmt
  pc     : Nat
  names  : List (Nat × Nat)
deriving DecidableEq, Repr

/-- Why the machine stops. -/
inductive Fault where
  /-- A command reads an IN_BUF octet that nothing has written since reset; raised by ENC_DATA, DECODE, CSUM_COMPUTE,
  CSUM_VALIDATE and RX_FRAME (R44, U3). Safe: the hardware goes on with some value. -/
  | unwrittenOctet
  /-- A host access while the reset input is asserted, which is outside the model (U18 `stuck`); raised by the host's turn.
  Safe: nothing is said of what follows. -/
  | accessInReset
  /-- A GOTO of the host's script to a label that no line of the script defines, which is no script of R94
(`scriptWellFormed` refuses it); raised by the host's turn, never by the block. Safe. -/
  | noLabel
deriving DecidableEq, Repr

/-- Why an instruction has no meaning. -/
inductive Refusal where
  /-- The instruction's arm of `exec` is not written yet. Safe. -/
  | notModelled (mnemonic : String)
deriving DecidableEq, Repr

/-- The block, its host and the order of their events. CMD has no field: it holds no value (R23). -/
structure State where
  /-- MAX_PAYLOAD and W_RAND, which PARAM_MAXPL and PARAM_WRAND read back (R7, R37, R38) -/
  params     : Params
  /-- STATUS.DONE (R24) -/
  done       : Bool
  /-- STATUS.WIGN (R24, R117) -/
  wign       : Bool
  /-- STATUS.VALID (R24, R45) -/
  valid      : Bool
  /-- STATUS.DROP (R24, R45) -/
  drop       : Bool
  /-- STATUS.ERRCODE (R24, R220) -/
  errcode    : ErrCode
  /-- ARG_SEQ (R25) -/
  argSeq     : Word
  /-- ARG_CSUM, its stored bits (R26) -/
  argCsum    : Half
  /-- IN_LEN (R27) -/
  inLen      : Word
  /-- OUT_LEN (R28) -/
  outLen     : Word
  /-- RES_SEQ (R29) -/
  resSeq     : Word
  /-- RES_CSUM, its stored bits (R30) -/
  resCsum    : Half
  /-- RES_KIND; `none` is NONE (R31) -/
  resKind    : Option FrameKind
  /-- RES_PLEN (R32) -/
  resPlen    : Word
  /-- LOSS_MODE, its stored bits (R33) -/
  lossMode   : BitVec 2
  /-- LOSS_THRESH (R34) -/
  lossThresh : Word
  /-- LOSS_PERIOD (R35) -/
  lossPeriod : Word
  /-- LOSS_COUNT (R36) -/
  lossCount  : Word
  /-- the engine's phase, which STATUS.BUSY shows (R42) -/
  phase      : Phase
  /-- PENDING (R42) -/
  pending    : BitVec 4
  /-- IN_BUF (R40) -/
  inBuf      : Memory
  /-- OUT_BUF (R41) -/
  outBuf     : Memory
  /-- the level of the reset input: asserted or not (R250) -/
  inReset    : Bool
  /-- the model's own: how many draws have been taken, which picks the next one (R14, R43) -/
  draws      : Nat
  /-- the model's own: how many other free values have been taken (U3, U13, log entry 19) -/
  fresh      : Nat
  /-- the model's own: the host (R21) -/
  host       : HostAgent
  /-- the model's own: whose events come next, oldest first (R71) -/
  turns      : List Turn
deriving DecidableEq, Repr

/-- Reset, for a block with these parameters (R22, R44). PENDING is unspecified; 0 is a DESIGN CHOICE (log entry 4).
The host has no script, and no turn is laid down (log entry 6). -/
def State.resetWith (p : Params) : State where
  params := p
  done := false
  wign := false
  valid := false
  drop := false
  errcode := .none
  argSeq := 0
  argCsum := 0
  inLen := 0
  outLen := 0
  resSeq := 0
  resCsum := 0
  resKind := none
  resPlen := 0
  lossMode := 0
  lossThresh := 0
  lossPeriod := 0
  lossCount := 0
  phase := .idle
  pending := 0
  inBuf := []
  outBuf := []
  inReset := false
  draws := 0
  fresh := 0
  host := { script := [], pc := 0, names := [] }
  turns := []

/-- The machine right after reset, with the parameters of log entry 2. -/
def State.reset : State := State.resetWith Params.reference

end Sys2Proof.Machine
end

