-- ==== Sys2Proof/Machine/Ops.lean ====
section
/-! DEFINITION. The shared operations: the buffers' octets, the acceptance and completion of a command, `raise`, the writes
of results, and the reset input. -/

namespace Sys2Proof.Machine

/-! ### Sparse cells in rising order: the buffers and the host's names -/

/-- The value at an index, none where nothing is listed. -/
def cellAt {α : Type} : List (Nat × α) → Nat → Option α
  | [], _ => none
  | (b, v) :: rest, a => if b = a then some v else cellAt rest a

/-- Lists a value at an index, keeping the indices strictly rising. -/
def setCell {α : Type} : List (Nat × α) → Nat → α → List (Nat × α)
  | [], a, v => [(a, v)]
  | (b, u) :: rest, a, v =>
    if a < b then (a, v) :: (b, u) :: rest
    else if a = b then (a, v) :: rest
    else (b, u) :: setCell rest a v

/-- The canonical form of a memory: indices strictly rising. An unlisted index holds no value (R44), so no entry can equal
what an unlisted index reads as. -/
abbrev Memory.wf (m : Memory) : Prop := m.Pairwise fun x y => x.1 < y.1

/-- Octet `i` of a buffer, the spec's `MemRead(B, i, 1)` (R11); none where nothing has written it since reset (R44). -/
def Memory.byte (m : Memory) (i : Nat) : Option Byte := cellAt m i

/-- `B[i] <- v`, the spec's `MemWrite(B, i, 1, v)` (R11). -/
def Memory.setByte (m : Memory) (i : Nat) (v : Byte) : Memory := setCell m i v

/-- The `n` octets from index `i`; none if one of them holds no value. -/
def Memory.bytes (m : Memory) (i : Nat) : Nat → Option (List Byte)
  | 0 => some []
  | n + 1 =>
    match m.byte i with
    | none => none
    | some b => (Memory.bytes m (i + 1) n).map (b :: ·)

/-- Writes octets one at a time from index `i` up. -/
def Memory.setBytes (m : Memory) (i : Nat) : List Byte → Memory
  | [] => m
  | b :: rest => Memory.setBytes (m.setByte i b) (i + 1) rest

namespace State

/-! ### The lifecycle of a command -/

/-- Acceptance of a command word (R114). -/
def accept (w : Word) (s : State) : State :=
  { s with
    pending :=
      if w.extractLsb' 4 28 = 0 ∧ 1 ≤ (w.setWidth 4).toNat ∧ (w.setWidth 4).toNat ≤ 8 then w.setWidth 4 else 0
    done := false
    valid := false
    drop := false
    errcode := .none
    phase := .busy }

/-- Completion (R115): BUSY falls, DONE rises. DESIGN CHOICE (log entry 4): PENDING keeps the latched code, where U13 allows
any value while IDLE. -/
def complete (s : State) : State := { s with phase := .idle, done := true }

/-- The end of a command with this error code (R45, R115). -/
def finish (e : ErrCode) (s : State) : State := complete { s with errcode := e }

/-- A command that succeeds ends with ERRCODE 0 (R220). DEDUCED (log entry 13). -/
def succeed (s : State) : State := s.finish .none

/-- `raise` (R13): writes ERRCODE, skips the rest, completes. It is no trap, so nothing is saved and there is no return
from it (R225, R232). -/
def raise (e : ErrCode) (s : State) : State := s.finish e

/-! ### The writes of results -/

/-- Writes a frame to OUT_BUF from index 0, and OUT_LEN (R130 to R132). The octets above keep their values (R41, log
entry 14). -/
def emit (F : List Byte) (s : State) : State :=
  { s with outBuf := s.outBuf.setBytes 0 F, outLen := BitVec.ofNat 32 F.length }

/-- The result registers after a frame was decoded (R140, case Ok). -/
def setResult (f : Frame) (s : State) : State :=
  { s with
    resKind := some f.kind
    resSeq := f.seq
    resCsum := f.csum
    resPlen := BitVec.ofNat 32 f.payload.length }

/-- The result registers after a failed decode or a dropped frame (R140 case Err, R200). -/
def clearResult (s : State) : State := { s with resKind := none, resSeq := 0, resCsum := 0, resPlen := 0 }

/-- RES_CSUM after a checksum was computed (R170, R171). -/
def setResCsum (c : Half) (s : State) : State := { s with resCsum := c }

/-- STATUS.VALID after a checksum check passed (R45, R171, R200). -/
def setValid (s : State) : State := { s with valid := true }

/-- STATUS.DROP after the gate's verdict (R45, R190, R200). -/
def setDrop (d : Bool) (s : State) : State := { s with drop := d }

/-- A consultation of the gate counts (R184); in RANDOM mode, and only there, it has taken one draw (R182, R183). -/
def countConsultation (count : Word) (s : State) : State :=
  { s with lossCount := count, draws := if s.lossMode = 0 then s.draws + 1 else s.draws }

/-! ### The reset input -/

/-- Every register at its reset value, the engine IDLE, the buffers without values (R44, R250). PENDING takes a free
value (U13). The parameters, the model's counters, the host and the order of events are not the block's to reset. -/
def resetBlock (s : State) : State :=
  { State.resetWith s.params with
    pending := Config.resetPending s.fresh
    inReset := s.inReset
    draws := s.draws
    fresh := s.fresh + 1
    host := s.host
    turns := s.turns }

/-- The reset input is asserted (R250, R251). -/
def assertReset (s : State) : State := { s.resetBlock with inReset := true }

/-- The reset input is released (R250). Without an asserted input there is nothing to release; DEDUCED (log
entry 10). -/
def releaseReset (s : State) : State := if s.inReset then { s.resetBlock with inReset := false } else s

end State

end Sys2Proof.Machine
end

