-- ==== Sys2Proof/Machine/Operands.lean ====
section
/-! DEFINITION. The operands of the commands (R92): registers taken whole and unsigned, the octets of IN_BUF below IN_LEN,
the frame they hold, and one draw. -/

namespace Sys2Proof.Machine.State

/-- `reg[IN_LEN]` as a count of octets (R27). -/
def inCount (s : State) : Nat := s.inLen.toNat

/-- `InBuf[0 .. IN_LEN)`; none if one of the octets holds no value (R40, R44). -/
def inOctets (s : State) : Option (List Byte) := s.inBuf.bytes 0 s.inCount

/-- `decode_frame(InBuf[0 .. IN_LEN))` (R140). A frame of fewer than 64 octets is MALFORMED_SHORT "whatever the octets are"
(R140), so its octets are not read (log entry 8); of a longer one every octet is read, and none answers an octet without value. -/
def inFrame (s : State) : Option (Except FrameError Frame) :=
  if s.inCount < hdrLen then some (.error .malformedShort)
  else s.inOctets.map decodeFrame

/-- `draw()` as the next gate consultation sees it (R14). -/
def draw (s : State) : Nat := Config.draw s.params s.draws

end Sys2Proof.Machine.State
end

