-- ==== Sys2Proof/Machine/Checksum.lean ====
section
/-! DEFINITION. The checksum engine: CSUM_COMPUTE and CSUM_VALIDATE (spec/42_checksum.md). -/

namespace Sys2Proof

/-- The 16-bit big-endian words of a payload, an odd last octet padded with zero (R160). -/
def payloadWords : List Byte → List Nat
  | [] => []
  | [a] => [a.toNat * 256]
  | a :: b :: rest => (a.toNat * 256 + b.toNat) :: payloadWords rest

/-- One addition with end-around carry (R161). -/
def foldAdd (S w : Nat) : Nat := if 0xFFFF < S + w then S + w - 0x10000 + 1 else S + w

/-- `foldedSum(P)` (R161). -/
def foldedSum (P : List Byte) : Nat := (payloadWords P).foldl foldAdd 0

/-- `compute(P) = 0xFFFF - foldedSum(P)` (R162). -/
def computeChecksum (P : List Byte) : Half := BitVec.ofNat 16 (0xFFFF - foldedSum P)

/-- `validate(P, r) = (0xFFFF - foldedSum(P) - r = 0)`, exact arithmetic (R163). -/
def validateChecksum (P : List Byte) (r : Half) : Bool :=
  decide (0xFFFF - (foldedSum P : Int) - (r.toNat : Int) = 0)

namespace Machine

/-- CSUM_COMPUTE (R170). -/
def execCsumCompute (s : State) : Host.Outcome State Fault Refusal :=
  if s.params.inBufSize < s.inCount then .next (s.raise .lengthError)
  else
    match s.inOctets with
    | none => .fault .unwrittenOctet
    | some P => .next (s.setResCsum (computeChecksum P)).succeed

/-- CSUM_VALIDATE (R171). RES_CSUM is written on a match and on a mismatch; VALID is written on a match. -/
def execCsumValidate (s : State) : Host.Outcome State Fault Refusal :=
  if s.params.inBufSize < s.inCount then .next (s.raise .lengthError)
  else
    match s.inOctets with
    | none => .fault .unwrittenOctet
    | some P =>
      .next
        (if validateChecksum P s.argCsum then (s.setResCsum (computeChecksum P)).setValid.succeed
         else (s.setResCsum (computeChecksum P)).raise .corruptedSegment)

end Machine

end Sys2Proof
end

