-- ==== Sys2Proof/Machine/Flags.lean ====
section
/-! DEFINITION. STATUS as a word (R24), and the codes of the fields that registers show (R31, R220). -/

namespace Sys2Proof

/-- The code of an error (R220). -/
def ErrCode.code : ErrCode → BitVec 4
  | .none => 0
  | .malformedShort => 1
  | .malformedDigit => 2
  | .unknownFrameType => 3
  | .corruptedSegment => 4
  | .invalidConfiguration => 5
  | .lengthError => 6
  | .illegalCommand => 7

/-- The error a failed decode raises (R140, R221 to R223). -/
def FrameError.errCode : FrameError → ErrCode
  | .malformedShort => .malformedShort
  | .malformedDigit => .malformedDigit
  | .unknownFrameType => .unknownFrameType

namespace Machine

/-- RES_KIND.KIND: 0 DATA, 1 ACK, 2 EOF, 3 NONE (R31). -/
def kindCode : Option FrameKind → BitVec 2
  | some .data => 0
  | some .ack => 1
  | some .eof => 2
  | none => 3

/-- STATUS.BUSY shows the phase (R42). -/
def State.busy (s : State) : Bool := s.phase == .busy

/-- STATUS (R24): reserved [31:12], ERRCODE [11:8], reserved [7:5], DROP, VALID, WIGN, DONE, BUSY. -/
def State.statusWord (s : State) : Word :=
  0#20 ++ s.errcode.code ++ 0#3 ++ BitVec.ofBool s.drop ++ BitVec.ofBool s.valid ++ BitVec.ofBool s.wign ++
    BitVec.ofBool s.done ++ BitVec.ofBool s.busy

end Machine

end Sys2Proof
end

