-- ==== Sys2Proof/Machine/Codec.lean ====
section
/-! DEFINITION. The frame codec: ENC_DATA, ENC_ACK, ENC_EOF, DECODE, and the three wire frames (spec/41_codec.md). -/

namespace Sys2Proof.Machine

/-- ENC_DATA (R130). -/
def execEncData (s : State) : Host.Outcome State Fault Refusal :=
  if s.params.maxPayload < s.inCount then .next (s.raise .lengthError)
  else
    match s.inOctets with
    | none => .fault .unwrittenOctet
    | some P => .next (s.emit (encodeFrame .data s.argSeq s.argCsum P)).succeed

/-- ENC_ACK (R131). -/
def execEncAck (s : State) : Host.Outcome State Fault Refusal :=
  .next (s.emit (encodeFrame .ack s.argSeq 0 [])).succeed

/-- ENC_EOF (R132). -/
def execEncEof (s : State) : Host.Outcome State Fault Refusal :=
  .next (s.emit (encodeFrame .eof s.argSeq 0 [])).succeed

/-- FRAME_DATA: the engine has read a frame with the DATA tag and reports it (R140, case Ok). DEDUCED (log entry 11). -/
def execFrameData (seq : Word) (csum : Half) (payload : List Byte) (s : State) : Host.Outcome State Fault Refusal :=
  .next (s.setResult { kind := .data, seq := seq, csum := csum, payload := payload }).succeed

/-- FRAME_ACK: as FRAME_DATA with no payload; the checksum field is reported, not checked (R84, R140). DEDUCED (log
entry 11). -/
def execFrameAck (seq : Word) (csum : Half) (s : State) : Host.Outcome State Fault Refusal :=
  .next (s.setResult { kind := .ack, seq := seq, csum := csum, payload := [] }).succeed

/-- FRAME_EOF: as FRAME_ACK (R85, R140). DEDUCED (log entry 11). -/
def execFrameEof (seq : Word) (csum : Half) (s : State) : Host.Outcome State Fault Refusal :=
  .next (s.setResult { kind := .eof, seq := seq, csum := csum, payload := [] }).succeed

/-- A decoded frame runs as the instruction its tag names (R141). -/
def runFrame (f : Frame) (s : State) : Host.Outcome State Fault Refusal :=
  match f.kind with
  | .data => execFrameData f.seq f.csum f.payload s
  | .ack => execFrameAck f.seq f.csum s
  | .eof => execFrameEof f.seq f.csum s

/-- DECODE (R140). -/
def execDecode (s : State) : Host.Outcome State Fault Refusal :=
  if s.params.inBufSize < s.inCount then .next (s.raise .lengthError)
  else
    match s.inFrame with
    | none => .fault .unwrittenOctet
    | some (.error e) => .next (s.clearResult.raise e.errCode)
    | some (.ok f) => runFrame f s

end Sys2Proof.Machine
end

