-- ==== Sys2Proof/Machine/Loss.lean ====
section
/-! DEFINITION. The loss simulator: the gate and LOSS_GATE (spec/43_loss.md). -/

namespace Sys2Proof

/-- `cfg_ok` (R181): RANDOM with `P ≤ 2^W_RAND`, or PERIODIC with `K ≥ 1`. -/
def gateConfigOk (wRand : Nat) (mode : BitVec 2) (P K : Word) : Bool :=
  (mode == 0 && decide (P.toNat ≤ 2 ^ wRand)) || (mode == 1 && decide (1 ≤ K.toNat))

/-- `gate(mode, P, K, count, r)` (R185): none is INVALID_CONFIGURATION; else the verdict, true for DROP, and `count'`. -/
def gate (wRand : Nat) (mode : BitVec 2) (P K count : Word) (r : Nat) : Option (Bool × Word) :=
  if gateConfigOk wRand mode P K then
    some (if mode = 0 then decide (r ≤ P.toNat) else decide ((count + 1).toNat % K.toNat = 0), count + 1)
  else none

namespace Machine

/-- One consultation of the gate (R180): none is INVALID_CONFIGURATION, which takes no draw and no count; else the verdict
and the state with the count advanced (R184) and, in RANDOM mode only, one draw taken (R182, R183). -/
def State.consult (s : State) : Option (Bool × State) :=
  (gate s.params.wRand s.lossMode s.lossThresh s.lossPeriod s.lossCount s.draw).map fun (v : Bool × Word) =>
    (v.1, s.countConsultation v.2)

/-- LOSS_GATE (R190). -/
def execLossGate (s : State) : Host.Outcome State Fault Refusal :=
  match s.consult with
  | none => .next (s.raise .invalidConfiguration)
  | some (drop, t) => .next (t.setDrop drop).succeed

end Machine

end Sys2Proof
end

