-- ==== Sys2Proof/Machine/Receive.lean ====
section
/-! DEFINITION. The receive path: RX_FRAME (spec/44_receive_path.md). -/

namespace Sys2Proof.Machine

/-- A frame the gate drops (R200): "no further processing", and no error. -/
def State.dropFrame (s : State) : State := (s.clearResult.setDrop true).succeed

/-- What RX_FRAME does with a decode's result after the gate has passed the frame (R200, steps 2 and 3). -/
def State.receive (d : Except FrameError Frame) (s : State) : State :=
  match d with
  | .error e => s.clearResult.raise e.errCode
  | .ok f =>
    match f.kind with
    | .data =>
      if validateChecksum f.payload f.csum then (s.setResult f).setValid.succeed
      else (s.setResult f).raise .corruptedSegment
    | .ack => (s.setResult f).succeed
    | .eof => (s.setResult f).succeed

/-- RX_FRAME (R200). A dropped frame is not looked at, so an octet without value is a fault only when the gate passes. -/
def execRxFrame (s : State) : Host.Outcome State Fault Refusal :=
  if s.params.inBufSize < s.inCount then .next (s.raise .lengthError)
  else
    match s.consult with
    | none => .next (s.raise .invalidConfiguration)
    | some (drop, t) =>
      match s.inFrame with
      | none => if drop then .next t.dropFrame else .fault .unwrittenOctet
      | some d => .next (if drop then t.dropFrame else t.receive d)

end Sys2Proof.Machine
end

