-- ==== Sys2Proof/Machine/Dispatch.lean ====
section
/-! DEFINITION. One arm per instruction: the engine's step for it (R115). -/

namespace Sys2Proof.Machine

def exec (i : Instr) (s : State) : Host.Outcome State Fault Refusal :=
  match i with
  | .encData => Sys2Proof.Machine.execEncData s
  | .encAck => Sys2Proof.Machine.execEncAck s
  | .encEof => Sys2Proof.Machine.execEncEof s
  | .decode => Sys2Proof.Machine.execDecode s
  | .csumCompute => Sys2Proof.Machine.execCsumCompute s
  | .csumValidate => Sys2Proof.Machine.execCsumValidate s
  | .lossGate => Sys2Proof.Machine.execLossGate s
  | .rxFrame => Sys2Proof.Machine.execRxFrame s
  | .frameData seq csum payload => Sys2Proof.Machine.execFrameData seq csum payload s
  | .frameAck seq csum => Sys2Proof.Machine.execFrameAck seq csum s
  | .frameEof seq csum => Sys2Proof.Machine.execFrameEof seq csum s

end Sys2Proof.Machine
end

