-- ==== Sys2Proof/Machine/Engine.lean ====
section
/-! DEFINITION. The engine's step: the command PENDING selects (R113, R115). -/

namespace Sys2Proof.Machine

/-- The command that PENDING selects; none is an illegal command (R113). 9 to 15 are never latched; DEDUCED (log entry 15). -/
def State.pendingInstr (s : State) : Option Instr := decodeCommand (s.pending.setWidth 32)

/-- The engine's step while BUSY: the selected command, or ILLEGAL_COMMAND (R113, R115). -/
def engineStep (s : State) : Host.Outcome State Fault Refusal :=
  match s.pendingInstr with
  | some i => exec i s
  | none => .next (s.raise .illegalCommand)

/-- The engine's turn: its step is enabled exactly when the phase is BUSY (R115). -/
def engineTurn (s : State) : Host.Outcome State Fault Refusal :=
  match s.phase with
  | .busy => engineStep s
  | .idle => .next s

end Sys2Proof.Machine
end

