-- ==== Sys2Proof/Machine/Bus.lean ====
section
/-! DEFINITION. The host's accesses: registers, IN_BUF, OUT_BUF (spec/20_memory.md, spec/10_state.md, R117, R118). -/

namespace Sys2Proof

/-- The register map (R22). -/
def Reg.offset : Reg → Nat
  | .cmd => 0x00
  | .status => 0x04
  | .argSeq => 0x08
  | .argCsum => 0x0C
  | .inLen => 0x10
  | .outLen => 0x14
  | .resSeq => 0x18
  | .resCsum => 0x1C
  | .resKind => 0x20
  | .resPlen => 0x24
  | .lossMode => 0x28
  | .lossThresh => 0x2C
  | .lossPeriod => 0x30
  | .lossCount => 0x34
  | .paramMaxpl => 0x38
  | .paramWrand => 0x3C

/-- The register at an offset: none if the offset is misaligned or 0x40 or more (R62). -/
def regAt (off : Nat) : Option Reg :=
  match off with
  | 0x00 => some .cmd
  | 0x04 => some .status
  | 0x08 => some .argSeq
  | 0x0C => some .argCsum
  | 0x10 => some .inLen
  | 0x14 => some .outLen
  | 0x18 => some .resSeq
  | 0x1C => some .resCsum
  | 0x20 => some .resKind
  | 0x24 => some .resPlen
  | 0x28 => some .lossMode
  | 0x2C => some .lossThresh
  | 0x30 => some .lossPeriod
  | 0x34 => some .lossCount
  | 0x38 => some .paramMaxpl
  | 0x3C => some .paramWrand
  | _ => none

namespace Machine.State

/-- What a host read of a register returns (R22 to R38); reserved bits read 0 (R39), CMD reads 0 (R23). -/
def readReg (r : Reg) (s : State) : Word :=
  match r with
  | .cmd => 0
  | .status => s.statusWord
  | .argSeq => s.argSeq
  | .argCsum => s.argCsum.setWidth 32
  | .inLen => s.inLen
  | .outLen => s.outLen
  | .resSeq => s.resSeq
  | .resCsum => s.resCsum.setWidth 32
  | .resKind => (kindCode s.resKind).setWidth 32
  | .resPlen => s.resPlen
  | .lossMode => s.lossMode.setWidth 32
  | .lossThresh => s.lossThresh
  | .lossPeriod => s.lossPeriod
  | .lossCount => s.lossCount
  | .paramMaxpl => BitVec.ofNat 32 s.params.maxPayload
  | .paramWrand => (BitVec.ofNat 5 s.params.wRand).setWidth 32

/-- A write that is performed while IDLE and lost while BUSY, when it sets WIGN (R117). -/
def whileIdle (write : State) (s : State) : State := if s.busy then { s with wign := true } else write

/-- A host write of a register: CMD issues a command (R112), STATUS clears WIGN in every phase (R24), the RW registers
store their fields (R25 to R36), read-only registers ignore it (R22). -/
def writeReg (r : Reg) (v : Word) (s : State) : State :=
  match r with
  | .cmd => s.whileIdle (write := s.accept v)
  | .status => { s with wign := s.wign && !v.getLsbD 2 }
  | .argSeq => s.whileIdle (write := { s with argSeq := v })
  | .argCsum => s.whileIdle (write := { s with argCsum := v.setWidth 16 })
  | .inLen => s.whileIdle (write := { s with inLen := v })
  | .lossMode => s.whileIdle (write := { s with lossMode := v.setWidth 2 })
  | .lossThresh => s.whileIdle (write := { s with lossThresh := v })
  | .lossPeriod => s.whileIdle (write := { s with lossPeriod := v })
  | .lossCount => s.whileIdle (write := { s with lossCount := v })
  | .outLen => s
  | .resSeq => s
  | .resCsum => s
  | .resKind => s
  | .resPlen => s
  | .paramMaxpl => s
  | .paramWrand => s

/-- `RegRead(off)` (R62). -/
def regRead (off : Nat) (s : State) : Word :=
  match regAt off with
  | some r => s.readReg r
  | none => 0

/-- `RegWrite(off, v)` (R62). -/
def regWrite (off : Nat) (v : Word) (s : State) : State :=
  match regAt off with
  | some r => s.writeReg r v
  | none => s

/-- `InRead(i)` (R61): an octet nothing has written since reset reads as any value (U3, log entry 5);
0x00 outside the buffer. -/
def inRead (i : Nat) (s : State) : Byte × State :=
  if i < s.params.inBufSize then
    match s.inBuf.byte i with
    | some b => (b, s)
    | none => (Config.unwrittenIn s.fresh, { s with fresh := s.fresh + 1 })
  else (0, s)

/-- `OutRead(i)` (R61), as `InRead`. -/
def outRead (i : Nat) (s : State) : Byte × State :=
  if i < s.params.outBufSize then
    match s.outBuf.byte i with
    | some b => (b, s)
    | none => (Config.unwrittenOut s.fresh, { s with fresh := s.fresh + 1 })
  else (0, s)

/-- `InWrite(i, v)` (R61, R117). -/
def inWrite (i : Nat) (v : Byte) (s : State) : State :=
  if i < s.params.inBufSize then s.whileIdle (write := { s with inBuf := s.inBuf.setByte i v }) else s

/-- One host access (R60): the value a read returns, and the state after it. A write to OUT_BUF has no effect. -/
def access (a : Access) (s : State) : Option Nat × State :=
  match a with
  | .regRead off => (some (s.regRead off).toNat, s)
  | .regWrite off v => (none, s.regWrite off v)
  | .inRead i => (some (s.inRead i).1.toNat, (s.inRead i).2)
  | .inWrite i v => (none, s.inWrite i v)
  | .outRead i => (some (s.outRead i).1.toNat, (s.outRead i).2)
  | .outWrite _ _ => (none, s)

end Machine.State

end Sys2Proof
end

