-- ==== Sys2Proof/Machine/Script.lean ====
section
/-! DEFINITION. The host as an agent: one line of its script a turn (R94), and the pseudo-operations (R95). -/

namespace Sys2Proof.Machine

/-- The names a host has set, by number. -/
abbrev Names := List (Nat × Nat)

/-- `v[hi:lo]` of a natural, for `lo ≤ hi` (R9). -/
def natSlice (v hi lo : Nat) : Nat := v / 2 ^ lo % 2 ^ (hi + 1 - lo)

/-- A value, then a second one from the counter it left, then what is made of the two. -/
def evalTwo (u : Nat × Nat) (second : Nat → Nat × Nat) (f : Nat → Nat → Nat → Nat × Nat) : Nat × Nat :=
  f u.1 (second u.2).1 (second u.2).2

/-- A free value, and the counter past it. -/
def takeUnstated (k : Nat) : Nat × Nat := (Config.unstated k, k + 1)

/-- The value of a host-side expression, on unbounded naturals (R94), and the model's counter of free values after it.
DESIGN CHOICE (log entry 9): a comparison is 1 or 0. DESIGN CHOICE (log entry 19): where the spec states no value (a name
no line has set, a difference below zero, `mod` by zero, a slice `[hi:lo]` with `hi < lo`), the value is free. -/
def Expr.eval (names : Names) : Expr → Nat → Nat × Nat
  | .const n, k => (n, k)
  | .name x, k =>
    match cellAt names x with
    | some v => (v, k)
    | none => takeUnstated k
  | .add a b, k => evalTwo (a.eval names k) (b.eval names) fun u v k => (u + v, k)
  | .sub a b, k => evalTwo (a.eval names k) (b.eval names) fun u v k => if v ≤ u then (u - v, k) else takeUnstated k
  | .mod a b, k => evalTwo (a.eval names k) (b.eval names) fun u v k => if v = 0 then takeUnstated k else (u % v, k)
  | .slice a hi lo, k =>
    if lo ≤ hi then (natSlice (a.eval names k).1 hi lo, (a.eval names k).2) else takeUnstated (a.eval names k).2
  | .eq a b, k => evalTwo (a.eval names k) (b.eval names) fun u v k => (if u = v then 1 else 0, k)
  | .lt a b, k => evalTwo (a.eval names k) (b.eval names) fun u v k => (if u < v then 1 else 0, k)
  | .le a b, k => evalTwo (a.eval names k) (b.eval names) fun u v k => (if u ≤ v then 1 else 0, k)

/-- An expression written in the `w` bits of an access (R60: `v: u32`, `v: u8`). DESIGN CHOICE (log entry 19): the spec does
not state what is written of a value that does not fit, so the written value is free. -/
def Expr.evalBits (w : Nat) (names : Names) (e : Expr) (k : Nat) : BitVec w × Nat :=
  let v := e.eval names k
  if v.1 < 2 ^ w then (BitVec.ofNat w v.1, v.2)
  else (BitVec.ofNat w (takeUnstated v.2).1, (takeUnstated v.2).2)

/-- The line a label stands on (R94), counted from `k`; the first one, if a script has two (log entry 9). -/
def labelLine (l : Nat) : List Stmt → Nat → Option Nat
  | [], _ => none
  | .label m :: rest, k => if m = l then some k else labelLine l rest (k + 1)
  | _ :: rest, k => labelLine l rest (k + 1)

/-- What a line of a script asks for: a bus access whose result, if it is a read, gets a name; a new value of a name; a
jump; or nothing. -/
inductive Action where
  | access (a : Access) (x : Option Nat)
  | set (x v : Nat)
  | goto (l : Nat)
  | skip
  | stop
deriving DecidableEq, Repr

/-- The action of a line (R94), and the model's counter of free values after its expressions. -/
def Stmt.action (names : Names) (k : Nat) : Stmt → Action × Nat
  | .regWrite off v =>
    let o := off.eval names k
    let b := v.evalBits 32 names o.2
    (.access (.regWrite o.1 b.1) none, b.2)
  | .regRead off x =>
    let o := off.eval names k
    (.access (.regRead o.1) (some x), o.2)
  | .inWrite i v =>
    let j := i.eval names k
    let b := v.evalBits 8 names j.2
    (.access (.inWrite j.1 b.1) none, b.2)
  | .inRead i x =>
    let j := i.eval names k
    (.access (.inRead j.1) (some x), j.2)
  | .outRead i x =>
    let j := i.eval names k
    (.access (.outRead j.1) (some x), j.2)
  | .outWrite i v =>
    let j := i.eval names k
    let b := v.evalBits 8 names j.2
    (.access (.outWrite j.1 b.1) none, b.2)
  | .set x e =>
    let v := e.eval names k
    (.set x v.1, v.2)
  | .label _ => (.skip, k)
  | .ifGoto c l =>
    let v := c.eval names k
    (if v.1 = 0 then .skip else .goto l, v.2)
  | .stop => (.stop, k)

/-- The action of the host's current line; a script that has run out does nothing more. -/
def HostAgent.action (h : HostAgent) (k : Nat) : Action × Nat :=
  match h.script[h.pc]? with
  | some line => line.action h.names k
  | none => (.stop, k)

/-- Gives a name the value a read returned. -/
def bindRead (x value : Option Nat) (names : Names) : Names :=
  match x, value with
  | some x, some v => setCell names x v
  | _, _ => names

/-- The state after the host performed an access and moved to its next line. -/
def State.hostAccess (a : Access) (x : Option Nat) (s : State) : State :=
  { (s.access a).2 with
    host := { s.host with pc := s.host.pc + 1, names := bindRead x (s.access a).1 s.host.names } }

/-- The state after the host evaluated its line: only the counter of free values moves. -/
def State.evaluated (s : State) : State := { s with fresh := (s.host.action s.fresh).2 }

/-- The host's turn: one line of its script (R94). An access while the reset input is asserted is outside the
model (U18); DEDUCED (log entry 10). -/
def hostTurn (s : State) : Host.Outcome State Fault Refusal :=
  match (s.host.action s.fresh).1 with
  | .access a x => if s.inReset then .fault .accessInReset else .next (s.evaluated.hostAccess a x)
  | .set x v =>
    .next { s.evaluated with host := { s.host with pc := s.host.pc + 1, names := setCell s.host.names x v } }
  | .goto l =>
    match labelLine l s.host.script 0 with
    | some k => .next { s.evaluated with host := { s.host with pc := k } }
    | none => .fault .noLabel
  | .skip => .next { s.evaluated with host := { s.host with pc := s.host.pc + 1 } }
  | .stop => .next s

/-! ### The notation's forms and pseudo-operations, as lines of a script -/

namespace Script

/-- `WR <REG>, <v>` (R94). -/
def wr (r : Reg) (v : Expr) : Stmt := .regWrite (.const r.offset) v

/-- `RD <REG> -> <name>` (R94). -/
def rd (r : Reg) (x : Nat) : Stmt := .regRead (.const r.offset) x

/-- `CMD <MNEMONIC>` (R95); a frame tag is no command and issues nothing. -/
def cmd (i : Instr) : List Stmt :=
  match encode i with
  | .command w => [wr .cmd (.const w.toNat)]
  | .frame _ => []

/-- `WAIT` (R95) with a fresh label `l`, its `s` the name `x`. -/
def wait (l x : Nat) : List Stmt :=
  [.label l, rd .status x, .ifGoto (.eq (.slice (.name x) 0 0) (.const 1)) l]

/-- `RUN <MNEMONIC>` (R95). -/
def run (i : Instr) (l x : Nat) : List Stmt := cmd i ++ wait l x

/-- The octet writes of `LOAD IN, [b0, ..., bn-1]` (R95), from index `i`. -/
def loadOctets (i : Nat) : List Byte → List Stmt
  | [] => []
  | b :: rest => .inWrite (.const i) (.const b.toNat) :: loadOctets (i + 1) rest

/-- `LOAD IN, [b0, ..., bn-1]` (R95). -/
def load (B : List Byte) : List Stmt := loadOctets 0 B ++ [wr .inLen (.const B.length)]

/-- `LOAD IN, "<text>"` (R95): the ASCII codes of the characters (G2). DESIGN CHOICE (log entry 20): of a character that has
no ASCII code, which R95 gives no octet, the low 8 bits of its code point. -/
def loadText (text : String) : List Stmt := load (text.toList.map fun c => BitVec.ofNat 8 c.toNat)

/-- `LOADFRAME IN, <s>, <c>, <T>, [payload]` (R95), for every tag string `T` of 16 digits (R82). -/
def loadFrame (s : Word) (c : Half) (T : Half) (P : List Byte) : List Stmt := load (hdr s c T ++ P)

end Script

end Sys2Proof.Machine
end

