-- ==== Sys2Proof/Machine/Schedule.lean ====
section
/-! DEFINITION. The total order of events (R71): whose turn comes next, and that agent's turn. -/

namespace Sys2Proof.Machine

/-- Whose turn comes next: the one laid down in the state. When none is, a BUSY engine steps (weak fairness, R116), else the
host goes on, and while the reset input is asserted everything waits (U18). DESIGN CHOICE (log entry 6). -/
def State.nextTurn (s : State) : Option Turn :=
  match s.turns with
  | t :: _ => some t
  | [] => if s.inReset then none else if s.busy then some .engine else some .host

/-- The state with the turn that comes next taken from the order. -/
def State.popTurn (s : State) : State := { s with turns := s.turns.tail }

/-- One event of the total order. -/
def runTurn (s : State) : Host.Outcome State Fault Refusal :=
  match s.nextTurn with
  | none => .next s
  | some .host => hostTurn s.popTurn
  | some .engine => engineTurn s.popTurn
  | some .assertReset => .next s.popTurn.assertReset
  | some .releaseReset => .next s.popTurn.releaseReset

/-- The state in which the next event is the engine's step for a row of spec/opcode_table.json, its bits numbered as the
table numbers them: a command word is accepted (R114); a frame stands in IN_BUF with its length in IN_LEN and DECODE
is accepted. Bits that are no row's change nothing. -/
def placeWord (s : State) (nbits w : Nat) : State :=
  let t := { s with
    inReset := false
    turns := match s.turns with
      | [] => []
      | rest => .engine :: rest }
  match tableEncoding nbits w with
  | none => s
  | some (.command c) => t.accept c
  | some (.frame F) =>
    State.accept 0x00000004 { t with inBuf := t.inBuf.setBytes 0 F, inLen := BitVec.ofNat 32 F.length }

end Sys2Proof.Machine
end

