-- ==== Sys2Proof/Machine/Step.lean ====
section
/-! DEFINITION. One step of the machine, and the state that runs one given instruction next. -/

namespace Sys2Proof.Machine

/-- One event of the total order of R71: a turn of the host, of the engine, or of the reset input. -/
def step (s : State) : Host.Outcome State Fault Refusal := runTurn s

/-- `s` with the engine about to run the instruction of this row of spec/opcode_table.json. -/
def State.withFetchWord (s : State) (nbits w : Nat) : State := placeWord s nbits w

end Sys2Proof.Machine
end

