-- ==== Sys2Proof/Safety.lean ====
section
/-! DEFINITION. The states a run of the block can be in, and the notions the statements use. -/

namespace Sys2Proof.Machine.State

/-- The buffers are in canonical form and hold indices inside them only (R40, R41, R61). -/
abbrev BuffersFit (s : State) : Prop :=
  s.inBuf.wf ∧ s.outBuf.wf ∧
    (∀ c ∈ s.inBuf, c.1 < s.params.inBufSize) ∧ (∀ c ∈ s.outBuf, c.1 < s.params.outBufSize)

/-- From acceptance to completion STATUS shows BUSY alone, beside WIGN (R114, R118), and PENDING is one of R114's values. -/
abbrev BusyIsClean (s : State) : Prop :=
  s.phase = .busy →
    s.done = false ∧ s.valid = false ∧ s.drop = false ∧ s.errcode = .none ∧ s.pending.toNat ≤ 8

/-- The result flags report a completed command, and at most one of them: an error, a passed check, a drop (R45, R201, R230). -/
abbrev FlagsAgree (s : State) : Prop :=
  (s.done = false → s.valid = false ∧ s.drop = false ∧ s.errcode = .none) ∧
    (s.valid = true → s.drop = false ∧ s.errcode = .none) ∧ (s.drop = true → s.errcode = .none)

/-- RES_PLEN is within the payload bound, and only a DATA frame has one; without a frame RES_SEQ is 0 (R29, R31, R32). -/
abbrev ResultsAgree (s : State) : Prop :=
  s.resPlen.toNat ≤ s.params.maxPayload ∧ (s.resKind ≠ some .data → s.resPlen = 0) ∧ (s.resKind = none → s.resSeq = 0)

/-- OUT_LEN is 0 or a frame's length inside OUT_BUF, and OUT_BUF holds that many octets (R28, R41). -/
abbrev OutputAgrees (s : State) : Prop :=
  (s.outLen = 0 ∨ hdrLen ≤ s.outLen.toNat) ∧ s.outLen.toNat ≤ s.params.outBufSize ∧
    ∀ i < s.outLen.toNat, (s.outBuf.byte i).isSome

/-- While the reset input is asserted the block is held at its reset values (R250, U18). -/
abbrev HeldInReset (s : State) : Prop :=
  s.inReset = true →
    s = { State.resetWith s.params with
          pending := s.pending, inReset := true, draws := s.draws, fresh := s.fresh, host := s.host, turns := s.turns }

/-- What holds of every state of a run. -/
abbrev Inv (s : State) : Prop :=
  s.params.legal ∧ s.BuffersFit ∧ s.BusyIsClean ∧ s.FlagsAgree ∧ s.ResultsAgree ∧ s.OutputAgrees ∧ s.HeldInReset

/-- `cfg_ok` of a consultation (R181). -/
abbrev GateConfigured (s : State) : Prop :=
  (s.lossMode = 0 ∧ s.lossThresh.toNat ≤ 2 ^ s.params.wRand) ∨ (s.lossMode = 1 ∧ 1 ≤ s.lossPeriod.toNat)

/-- The verdict of a consultation that passes the configuration check: true for DROP (R182, R183). -/
def gateDrops (s : State) : Bool :=
  if s.lossMode = 0 then decide (s.draw ≤ s.lossThresh.toNat)
  else decide ((s.lossCount.toNat + 1) % 2 ^ 32 % s.lossPeriod.toNat = 0)

/-- The draws taken after a consultation that passes the configuration check: one in RANDOM mode only (R182, R183). -/
def drawsAfter (s : State) : Nat := if s.lossMode = 0 then s.draws + 1 else s.draws

/-- The accesses one after another. -/
def accessAll (as : List Access) (s : State) : State := as.foldl (fun t a => (t.access a).2) s

/-- The same IN_LEN, and the same octets of IN_BUF below it (R92). -/
def SameInput (s t : State) : Prop := s.inLen = t.inLen ∧ ∀ i < s.inLen.toNat, s.inBuf.byte i = t.inBuf.byte i

/-- The same gate operands, and in RANDOM mode the same draw (R92, R190). -/
def SameGate (s t : State) : Prop :=
  s.lossMode = t.lossMode ∧ s.lossThresh = t.lossThresh ∧ s.lossPeriod = t.lossPeriod ∧ s.lossCount = t.lossCount ∧
    (s.lossMode = 0 → s.draw = t.draw)

/-- The operands an instruction reads are the same in two states of one block: its row of R92, and nothing else. A frame
carries its operands itself. -/
def SameOperands (i : Instr) (s t : State) : Prop :=
  s.params = t.params ∧
    match i with
    | .encData => s.argSeq = t.argSeq ∧ s.argCsum = t.argCsum ∧ SameInput s t
    | .encAck | .encEof => s.argSeq = t.argSeq
    | .decode | .csumCompute => SameInput s t
    | .csumValidate => s.argCsum = t.argCsum ∧ SameInput s t
    | .lossGate => SameGate s t
    | .rxFrame => SameGate s t ∧ SameInput s t
    | .frameData _ _ _ | .frameAck _ _ | .frameEof _ _ => True

end Sys2Proof.Machine.State

namespace Sys2Proof.Machine

/-- An outcome with the next state changed. -/
def mapNext (f : State → State) : Host.Outcome State Fault Refusal → Host.Outcome State Fault Refusal
  | .next s => .next (f s)
  | .fault r => .fault r
  | .refused r => .refused r

/-- The states a run of the block reaches from its reset (R44), whatever the host's script and the order of events. -/
inductive Reachable (p : Params) : State → Prop where
  | start (h : HostAgent) (ts : List Turn) : Reachable p { State.resetWith p with host := h, turns := ts }
  | step {s t : State} : Reachable p s → step s = .next t → Reachable p t

/-- How many octets of two sequences differ (R88). -/
def octetsChanged (A B : List Byte) : Nat := (List.zipWith (fun a b => a != b) A B).count true

/-- `n` LOSS_GATE commands one after another, each on the state the one before it left; the verdicts, oldest first. -/
def gateVerdicts : Nat → State → List Bool
  | 0, _ => []
  | n + 1, s =>
    match exec .lossGate s with
    | .next t => t.drop :: gateVerdicts n t
    | _ => []

/-- The reset column of the register map (R22). -/
def resetValue (p : Params) : Reg → Word
  | .resKind => 3
  | .paramMaxpl => BitVec.ofNat 32 p.maxPayload
  | .paramWrand => BitVec.ofNat 32 p.wRand
  | .cmd | .status | .argSeq | .argCsum | .inLen | .outLen | .resSeq | .resCsum | .resPlen | .lossMode | .lossThresh
  | .lossPeriod | .lossCount => 0

/-- The registers a host write stores into while IDLE (R22, R117). -/
def storingRegs : List Reg := [.argSeq, .argCsum, .inLen, .lossMode, .lossThresh, .lossPeriod, .lossCount]

/-- The registers that ignore a host write in every phase (R22). -/
def readOnlyRegs : List Reg := [.outLen, .resSeq, .resCsum, .resKind, .resPlen, .paramMaxpl, .paramWrand]

/-- The part of a written value a register keeps (R26, R33). -/
def storedPart (r : Reg) (v : Word) : Word :=
  match r with
  | .argCsum => v &&& 0x0000FFFF
  | .lossMode => v &&& 0x00000003
  | _ => v

/-- The registers a command may write (R120, and "writes" of spec/opcode_table.json). -/
def writtenRegs : Instr → List Reg
  | .encData | .encAck | .encEof => [.outLen, .status]
  | .decode => [.resKind, .resSeq, .resCsum, .resPlen, .status]
  | .csumCompute | .csumValidate => [.resCsum, .status]
  | .lossGate => [.lossCount, .status]
  | .rxFrame => [.lossCount, .resKind, .resSeq, .resCsum, .resPlen, .status]
  | .frameData _ _ _ | .frameAck _ _ | .frameEof _ _ => [.resKind, .resSeq, .resCsum, .resPlen, .status]

/-- The octets an encoder writes to OUT_BUF from index 0; none when it ends with LENGTH_ERROR (R130 to R132). -/
def storedFrame (i : Instr) (s : State) : List Byte :=
  match i with
  | .encData =>
    if s.params.maxPayload < s.inCount then []
    else
      match s.inOctets with
      | some P => encodeFrame .data s.argSeq s.argCsum P
      | none => []
  | .encAck => encodeFrame .ack s.argSeq 0 []
  | .encEof => encodeFrame .eof s.argSeq 0 []
  | .decode | .csumCompute | .csumValidate | .lossGate | .rxFrame => []
  | .frameData _ _ _ | .frameAck _ _ | .frameEof _ _ => []

/-- The command consults the loss gate under a legal configuration (R180, R181, R200). -/
def Consults (i : Instr) (s : State) : Prop :=
  s.GateConfigured ∧ (i = .lossGate ∨ (i = .rxFrame ∧ s.inCount ≤ s.params.inBufSize))

/-- A host read (R60). -/
def isRead : Access → Bool
  | .regRead _ | .inRead _ | .outRead _ => true
  | .regWrite _ _ | .inWrite _ _ | .outWrite _ _ => false

end Sys2Proof.Machine
end

