-- ==== Sys2Proof/Certificates/Slice0/Obligations.lean ====
section
/-! DEFINITION. The statements for the provers. A statement that gives a whole next state `{ s with … }` keeps PENDING as
acceptance latched it; while IDLE the spec allows any value there (U13), and that it stays is the model's (log entry 4).
A statement about every instruction speaks of the wire frames too, whose running as instructions is the model's reading (log
entry 11, DEDUCED). -/

open Sys2Proof Sys2Proof.Machine

/-! ### The wire frame and the command word (spec/30_encoding.md, spec/41_codec.md) -/

/-- Words and octets written out from R83, R91 and the example of R130 decode to the instructions they stand for. -/
def Obligations.WrittenOutEncodingsDecode : Prop :=
  decode (.command 0b00000000000000000000000000000001#32) = .ok .encData ∧
    decode (.command 0b00000000000000000000000000000111#32) = .ok .lossGate ∧
    decode (.command 0b00000000000000000000000000010001#32) = .error .illegalCommand ∧
    decode (.frame
      ([0x30, 0x30, 0x30, 0x30, 0x30, 0x30, 0x30, 0x30, 0x30, 0x30, 0x30, 0x30, 0x30, 0x30, 0x30, 0x30] ++
       [0x30, 0x30, 0x30, 0x30, 0x30, 0x30, 0x30, 0x30, 0x30, 0x30, 0x30, 0x30, 0x30, 0x31, 0x30, 0x31] ++
       [0x31, 0x30, 0x31, 0x31, 0x31, 0x31, 0x31, 0x30, 0x31, 0x30, 0x31, 0x31, 0x31, 0x31, 0x30, 0x31] ++
       [0x30, 0x31, 0x30, 0x31, 0x30, 0x31, 0x30, 0x31, 0x30, 0x31, 0x30, 0x31, 0x30, 0x31, 0x30, 0x31] ++
       [0x41, 0x42])) = .ok (.frameData 5 0xBEBD [0x41, 0x42]) ∧
    FrameKind.ack.tag =
      [0x31, 0x30, 0x31, 0x30, 0x31, 0x30, 0x31, 0x30, 0x31, 0x30, 0x31, 0x30, 0x31, 0x30, 0x31, 0x30] ∧
    FrameKind.eof.tag =
      [0x30, 0x30, 0x30, 0x30, 0x30, 0x30, 0x30, 0x30, 0x30, 0x30, 0x30, 0x30, 0x30, 0x30, 0x30, 0x30]

/-- R82: which octet holds which bit of the header, for every string of 16 tag digits, and the sums that read the fields
back. -/
def Obligations.HeaderPlacesEveryBit : Prop :=
  ∀ (s : Word) (c : Half) (T : Half),
    (hdr s c T).length = 64 ∧
      (∀ j < 32, (hdr s c T)[j]? = some (if s.getLsbD (31 - j) then 0x31 else 0x30)) ∧
      (∀ j < 16, (hdr s c T)[32 + j]? = some (if c.getLsbD (15 - j) then 0x31 else 0x30)) ∧
      (∀ j < 16, (hdr s c T)[48 + j]? = some (if T.getLsbD (15 - j) then 0x31 else 0x30)) ∧
      s.toNat = ∑ j ∈ Finset.range 32, digit ((hdr s c T)[j]?.getD 0) * 2 ^ (31 - j) ∧
      c.toNat = ∑ j ∈ Finset.range 16, digit ((hdr s c T)[32 + j]?.getD 0) * 2 ^ (15 - j)

/-- R141: the decoder's checks in their order, and the fields of a frame that passes them. -/
def Obligations.DecoderChecksLengthThenTagThenDigits : Prop :=
  ∀ F : List Byte,
    (F.length < 64 → decodeFrame F = .error .malformedShort) ∧
      (64 ≤ F.length → (∀ k : FrameKind, slice F 48 64 ≠ k.tag) → decodeFrame F = .error .unknownFrameType) ∧
      ∀ k : FrameKind, 64 ≤ F.length → slice F 48 64 = k.tag →
        ((∃ j < 48, isDigit (F[j]?.getD 0) = false) → decodeFrame F = .error .malformedDigit) ∧
          ((∀ j < 48, isDigit (F[j]?.getD 0) = true) →
            ∃ f, decodeFrame F = .ok f ∧ f.kind = k ∧
              f.seq.toNat = ∑ j ∈ Finset.range 32, digit (F[j]?.getD 0) * 2 ^ (31 - j) ∧
              f.csum.toNat = ∑ j ∈ Finset.range 16, digit (F[32 + j]?.getD 0) * 2 ^ (15 - j) ∧
              f.payload = if k = .data then F.drop 64 else [])

/-- R142: the round trip, for the valid tuples and for the others. -/
def Obligations.EncodedFramesDecodeToThemselves : Prop :=
  ∀ (s : Word) (c : Half) (P : List Byte),
    decodeFrame (encodeFrame .data s c P) = .ok { kind := .data, seq := s, csum := c, payload := P } ∧
      decodeFrame (encodeFrame .ack s c P) = .ok { kind := .ack, seq := s, csum := 0, payload := [] } ∧
      decodeFrame (encodeFrame .eof s c P) = .ok { kind := .eof, seq := s, csum := 0, payload := [] }

/-- A frame that decodes begins with the header of its fields, a DATA frame is the encoding of what it decodes to, and an ACK
or EOF frame has no payload (R135, R141). -/
def Obligations.DecodedFrameBeginsWithItsHeader : Prop :=
  ∀ (F : List Byte) (f : Frame), decodeFrame F = .ok f →
    F.take 64 = hdr f.seq f.csum f.kind.tagValue ∧
      (f.kind = .data → F = encodeFrame .data f.seq f.csum f.payload) ∧ (f.kind ≠ .data → f.payload = [])

/-- Decode and encode agree on exactly the well-formed instructions, every operand at every value (R91, R135, R141, R142). -/
def Obligations.DecodeInvertsEncode : Prop :=
  ∀ i : Instr, decode (encode i) = .ok i ↔ i.wellFormed = true

/-- R91: the opcode map, and no other word is legal. -/
def Obligations.OpcodeMapIsExact : Prop :=
  (∀ w : Word, (∃ i, decode (.command w) = .ok i) ↔ 1 ≤ w.toNat ∧ w.toNat ≤ 8) ∧
    decode (.command 0x00000001) = .ok .encData ∧ decode (.command 0x00000002) = .ok .encAck ∧
    decode (.command 0x00000003) = .ok .encEof ∧ decode (.command 0x00000004) = .ok .decode ∧
    decode (.command 0x00000005) = .ok .csumCompute ∧ decode (.command 0x00000006) = .ok .csumValidate ∧
    decode (.command 0x00000007) = .ok .lossGate ∧ decode (.command 0x00000008) = .ok .rxFrame

/-- R88: the distances between the tags, and that fewer than 8 changed octets never give another tag. -/
def Obligations.TagsAreFarApart : Prop :=
  octetsChanged FrameKind.data.tag FrameKind.ack.tag = 16 ∧
    octetsChanged FrameKind.eof.tag FrameKind.data.tag = 8 ∧ octetsChanged FrameKind.eof.tag FrameKind.ack.tag = 8 ∧
    ∀ (k : FrameKind) (T : List Byte), T.length = 16 → T ≠ k.tag → octetsChanged T k.tag < 8 → classifyTag T = none

/-! ### The checksum (spec/42_checksum.md) -/

/-- R160: word k of a payload. -/
def Obligations.PayloadWordsPairOctets : Prop :=
  ∀ P : List Byte,
    (payloadWords P).length = (P.length + 1) / 2 ∧
      ∀ k < (P.length + 1) / 2,
        (payloadWords P)[k]? =
          some ((P[2 * k]?.getD 0).toNat * 256 + if 2 * k + 1 < P.length then (P[2 * k + 1]?.getD 0).toNat else 0)

/-- R161: the sum starts at 0 and takes in one more word, full or padded, with its carry folded at once. -/
def Obligations.FoldedSumFoldsEveryAddition : Prop :=
  foldedSum [] = 0 ∧
    ∀ P : List Byte, foldedSum P ≤ 0xFFFF ∧
      (P.length % 2 = 0 → ∀ a b : Byte,
        foldedSum P + (a.toNat * 256 + b.toNat) ≤ 0x1FFFE ∧
          foldedSum (P ++ [a, b]) =
            (if 0xFFFF < foldedSum P + (a.toNat * 256 + b.toNat) then
              foldedSum P + (a.toNat * 256 + b.toNat) - 0x10000 + 1
            else foldedSum P + (a.toNat * 256 + b.toNat)) ∧
          foldedSum (P ++ [a]) =
            if 0xFFFF < foldedSum P + a.toNat * 256 then foldedSum P + a.toNat * 256 - 0x10000 + 1
            else foldedSum P + a.toNat * 256)

/-- R162: the checksum is 0xFFFF less the folded sum, its bitwise complement. -/
def Obligations.ChecksumIsTheComplement : Prop :=
  ∀ P : List Byte,
    (computeChecksum P).toNat = 0xFFFF - foldedSum P ∧ computeChecksum P = ~~~BitVec.ofNat 16 (foldedSum P)

/-- R163: validation by the formula is equality with the recomputed checksum. -/
def Obligations.ValidationIsEquality : Prop :=
  ∀ (P : List Byte) (r : Half),
    (validateChecksum P r = true ↔ (0xFFFF : Int) - foldedSum P - r.toNat = 0) ∧
      (validateChecksum P r = true ↔ r = computeChecksum P)

/-- R164 item 1: the closed form, and when the checksum is 0xFFFF or 0. -/
def Obligations.ChecksumClosedForm : Prop :=
  ∀ P : List Byte,
    foldedSum P = (if ∀ w ∈ payloadWords P, w = 0 then 0 else ((payloadWords P).sum - 1) % 0xFFFF + 1) ∧
      (computeChecksum P = 0xFFFF ↔ ∀ w ∈ payloadWords P, w = 0) ∧
      (computeChecksum P = 0 ↔ (payloadWords P).sum ≠ 0 ∧ 0xFFFF ∣ (payloadWords P).sum)

/-- R164 item 3: the order of the words does not matter. -/
def Obligations.ChecksumIgnoresWordOrder : Prop :=
  ∀ P Q : List Byte, (payloadWords P).Perm (payloadWords Q) → computeChecksum P = computeChecksum Q

/-- R164 item 4: changing one octet to another value always changes the checksum. -/
def Obligations.SingleOctetChangesAreDetected : Prop :=
  ∀ (P : List Byte) (i : Nat) (b : Byte), i < P.length → P[i]? ≠ some b → computeChecksum (P.set i b) ≠ computeChecksum P

/-- R164 item 5: the two blind spots. -/
def Obligations.ChecksumBlindSpots : Prop :=
  (∀ A B : List Byte, A.length % 2 = 0 → (∃ w ∈ payloadWords A ++ payloadWords B, w ≠ 0) →
      computeChecksum (A ++ [0x00, 0x00] ++ B) = computeChecksum (A ++ [0xFF, 0xFF] ++ B)) ∧
    ∀ P : List Byte, P.length % 2 = 1 → computeChecksum (P ++ [0x00]) = computeChecksum P

/-! ### Reset and the invariant (spec/10_state.md, spec/70_reset_and_hazards.md) -/

/-- R44: the state after reset shows the reset column of R22, for every MAX_PAYLOAD and W_RAND; the engine is IDLE, and no
octet of the buffers holds a value. -/
def Obligations.ResetStateShowsResetValues : Prop :=
  (∀ p : Params, p.legal → ∀ r : Reg, (State.resetWith p).regRead r.offset = resetValue p r) ∧
    (∀ p : Params, (State.resetWith p).phase = .idle ∧
      ∀ i, (State.resetWith p).inBuf.byte i = none ∧ (State.resetWith p).outBuf.byte i = none)

/-- R250, R251: moving the reset input leaves every register at its reset value, the engine IDLE and the buffers without
values, also while a command is BUSY, which takes no draw. -/
def Obligations.ResetInputAbandonsAndRestores : Prop :=
  ∀ (s : State) (a : Turn) (ts : List Turn), s.params.legal → s.turns = a :: ts →
    (a = .assertReset ∨ (a = .releaseReset ∧ s.inReset = true)) →
    ∃ t, step s = .next t ∧ t.inReset = decide (a = .assertReset) ∧ t.phase = .idle ∧
      (∀ r : Reg, t.regRead r.offset = resetValue s.params r) ∧
      (∀ i, t.inBuf.byte i = none ∧ t.outBuf.byte i = none) ∧
      t.done = false ∧ t.errcode = .none ∧ t.draws = s.draws ∧ t.params = s.params ∧ t.turns = ts

/-- The invariant holds after reset, whatever the parameters, and so for `State.reset`, whose parameters are log entry 2's. -/
def Obligations.ResetMeetsTheInvariant : Prop :=
  (∀ p : Params, p.legal → (State.resetWith p).Inv) ∧
    State.reset = State.resetWith { maxPayload := 512, wRand := 31 } ∧ State.reset.Inv

/-- Every step keeps the invariant: buffers in canonical form and in range, a BUSY engine with clean flags, flags and
results that agree, OUT_LEN over octets that hold values, and reset values while the reset input is asserted. -/
def Obligations.StepKeepsTheInvariant : Prop :=
  ∀ s t : State, s.Inv → step s = .next t → t.Inv

/-- Every state a run reaches from reset, under any script of the host and any order of events, meets the invariant. -/
def Obligations.ReachableStatesMeetTheInvariant : Prop :=
  ∀ (p : Params) (s : State), p.legal → Reachable p s → s.Inv ∧ s.params = p

/-- R7, R37, R38: no step changes the parameters, so PARAM_MAXPL and PARAM_WRAND are constant. -/
def Obligations.ParametersNeverChange : Prop :=
  ∀ s t : State, step s = .next t →
    t.params = s.params ∧ t.regRead 0x38 = s.regRead 0x38 ∧ t.regRead 0x3C = s.regRead 0x3C

/-! ### The lifecycle of a command (spec/40_command.md) -/

/-- R112, R114: a CMD write while IDLE is accepted, whatever the word is. -/
def Obligations.CommandWriteIsAccepted : Prop :=
  ∀ (s : State) (w : Word), s.phase = .idle →
    s.regWrite 0x00 w =
      { s with
        pending :=
          if w.extractLsb' 4 28 = 0 ∧ 1 ≤ (w.extractLsb' 0 4).toNat ∧ (w.extractLsb' 0 4).toNat ≤ 8 then
            w.extractLsb' 0 4
          else 0
        phase := .busy, done := false, valid := false, drop := false, errcode := .none }

/-- R113: a word that is no command is accepted, ends with ILLEGAL_COMMAND, and changes nothing else. That PENDING is still
the latched 0 once the engine is IDLE again is the model's choice (log entry 4). -/
def Obligations.IllegalWordsEndWithIllegalCommand : Prop :=
  ∀ (s : State) (w : Word), s.phase = .idle → (w.toNat = 0 ∨ 8 < w.toNat) →
    (s.regWrite 0x00 w).phase = .busy ∧ (s.regWrite 0x00 w).pending = 0 ∧
      engineStep (s.regWrite 0x00 w) =
        .next { s with
          pending := 0, phase := .idle, done := true, valid := false, drop := false, errcode := .illegalCommand }

/-- R91, R115: the word of a command, once accepted, makes the engine's step that command. -/
def Obligations.LegalWordsRunTheirCommand : Prop :=
  ∀ (s : State) (i : Instr) (w : Word), s.phase = .idle → encode i = .command w →
    (s.regWrite 0x00 w).phase = .busy ∧ engineStep (s.regWrite 0x00 w) = exec i (s.regWrite 0x00 w)

/-- A step runs the decoded instruction: when the engine moves next and is BUSY, the step is `exec` of the command that
PENDING selects, on the state with that turn taken from the order; and when that command is DECODE and IN_BUF holds a
frame, it is `exec` of the frame. That a frame is an instruction, with the meaning DECODE gives it, is the model's reading
(log entry 11, DEDUCED); that a BUSY engine moves next when no turn is laid down is its choice (log entry 6). -/
def Obligations.StepRunsTheDecodedInstruction : Prop :=
  ∀ s : State, s.nextTurn = some .engine → s.phase = .busy →
    (∀ i, decode (.command (s.pending.setWidth 32)) = .ok i → step s = exec i { s with turns := s.turns.tail }) ∧
      ∀ i F, s.pending = 4 → s.inLen.toNat ≤ s.params.inBufSize → s.inBuf.bytes 0 s.inLen.toNat = some F →
        decode (.frame F) = .ok i → step s = exec i { s with turns := s.turns.tail }

/-- R110, R115: the engine does nothing while IDLE; while BUSY its step answers, whatever PENDING holds, when the octets below
IN_LEN hold values, and every step that answers ends IDLE with DONE set and BUSY clear. That a BUSY engine moves next when no
turn is laid down is the model's choice (log entry 6), and that PENDING 9 to 15, which no run latches, ends as an illegal
command is its reading (log entry 15, DEDUCED). -/
def Obligations.EngineStepCompletes : Prop :=
  ∀ s : State, s.nextTurn = some .engine →
    (s.phase = .idle → step s = .next { s with turns := s.turns.tail }) ∧
      (s.phase = .busy → (∀ k < s.inLen.toNat, (s.inBuf.byte k).isSome) → ∃ t, step s = .next t) ∧
      ∀ t, s.phase = .busy → step s = .next t →
        t.phase = .idle ∧ t.done = true ∧ t.turns = s.turns.tail ∧
          (t.regRead 0x04).getLsbD 0 = false ∧ (t.regRead 0x04).getLsbD 1 = true

/-- R115: every instruction gives a next state when the octets below IN_LEN hold values. That a wire frame runs as an
instruction, and completes as a command does, is the model's reading (log entry 11, DEDUCED). Where IN_LEN is above
IN_BUF_SIZE no run's buffer lists such octets; EncDataWritesADataFrame, DecodeReportsTheFrame, CsumComputeWritesTheChecksum,
CsumValidateComparesTheChecksum and RxFrameOutcomes say how the commands that read IN_BUF complete there. -/
def Obligations.EveryInstructionCompletes : Prop :=
  ∀ (i : Instr) (s : State), (∀ k < s.inLen.toNat, (s.inBuf.byte k).isSome) →
    ∃ t, exec i s = .next t ∧ t.phase = .idle ∧ t.done = true

/-- R44, U3: a command that reads an octet which holds no value stops, and nothing else stops a command. DECODE and
RX_FRAME read the octets of a frame of 64 or more (log entry 8, DEDUCED); that a wire frame runs as an instruction, which never
stops, is log entry 11, DEDUCED. -/
def Obligations.OnlyAnOctetWithoutValueStopsACommand : Prop :=
  (∀ s : State, (∃ k < s.inLen.toNat, s.inBuf.byte k = none) →
      (s.inLen.toNat ≤ s.params.maxPayload → exec .encData s = .fault .unwrittenOctet) ∧
        (s.inLen.toNat ≤ s.params.inBufSize →
          exec .csumCompute s = .fault .unwrittenOctet ∧ exec .csumValidate s = .fault .unwrittenOctet ∧
            (64 ≤ s.inLen.toNat → exec .decode s = .fault .unwrittenOctet ∧
              (s.GateConfigured → s.gateDrops = false → exec .rxFrame s = .fault .unwrittenOctet)))) ∧
    (∀ (i : Instr) (s : State) (f : Fault), exec i s = .fault f →
      f = .unwrittenOctet ∧ ∃ k < s.inLen.toNat, s.inBuf.byte k = none) ∧
    ∀ (i : Instr) (s : State) (r : Refusal), exec i s ≠ .refused r

/-- R120, R45: what the encoders leave unchanged. OUT_BUF changes only at the indices of the frame they store. That PENDING
stays is the model's choice (log entry 4). -/
def Obligations.EncodersChangeOnlyTheOutput : Prop :=
  ∀ (i : Instr) (s t : State), (i = .encData ∨ i = .encAck ∨ i = .encEof) → exec i s = .next t →
    (∀ r : Reg, r ≠ .outLen → r ≠ .status → t.readReg r = s.readReg r) ∧
      (t.errcode = .lengthError → t.outLen = s.outLen) ∧
      t.wign = s.wign ∧ t.valid = s.valid ∧ t.drop = s.drop ∧
      (∀ a, t.inBuf.byte a = s.inBuf.byte a) ∧
      (∀ a, (storedFrame i s).length ≤ a → t.outBuf.byte a = s.outBuf.byte a) ∧
      t.params = s.params ∧ t.pending = s.pending ∧ t.inReset = s.inReset ∧ t.draws = s.draws ∧ t.fresh = s.fresh ∧
      t.host = s.host ∧ t.turns = s.turns

/-- R120, R45: what the commands and frames that store no octet leave unchanged. That PENDING stays is the model's choice
(log entry 4), and the frames' meanings are log entry 11. -/
def Obligations.OtherCommandsChangeOnlyTheirResults : Prop :=
  ∀ (i : Instr) (s t : State), i ≠ .encData → i ≠ .encAck → i ≠ .encEof → exec i s = .next t →
    (∀ r : Reg, r ∉ writtenRegs i → t.readReg r = s.readReg r) ∧
      t.wign = s.wign ∧ (i ≠ .csumValidate → i ≠ .rxFrame → t.valid = s.valid) ∧
      (i ≠ .lossGate → i ≠ .rxFrame → t.drop = s.drop) ∧
      (∀ a, t.inBuf.byte a = s.inBuf.byte a) ∧ (∀ a, t.outBuf.byte a = s.outBuf.byte a) ∧
      (¬Consults i s → t.draws = s.draws) ∧
      t.params = s.params ∧ t.pending = s.pending ∧ t.inReset = s.inReset ∧ t.fresh = s.fresh ∧ t.host = s.host ∧
      t.turns = s.turns

/-- R121: what a command writes is a function of the operands R92 lists for it, and for the loss gate of those and the one
draw. Two states with the same operands give the same error, and every register, flag and octet is either left unchanged in
both or has the same value in both. R121 speaks of commands; that a wire frame runs as an instruction, a function of its own
fields, is the model's reading (log entry 11, DEDUCED). -/
def Obligations.CommandsAreFunctionsOfTheirOperands : Prop :=
  ∀ (i : Instr) (s t s' : State), State.SameOperands i s t → exec i s = .next s' →
    ∃ t', exec i t = .next t' ∧ t'.errcode = s'.errcode ∧
      (∀ r : Reg, r ≠ .status →
        (s'.readReg r = s.readReg r ∧ t'.readReg r = t.readReg r) ∨ s'.readReg r = t'.readReg r) ∧
      ((s'.valid = s.valid ∧ t'.valid = t.valid) ∨ s'.valid = t'.valid) ∧
      ((s'.drop = s.drop ∧ t'.drop = t.drop) ∨ s'.drop = t'.drop) ∧
      ∀ a, (s'.outBuf.byte a = s.outBuf.byte a ∧ t'.outBuf.byte a = t.outBuf.byte a) ∨
        s'.outBuf.byte a = t'.outBuf.byte a

/-- R117, R118, R119: while BUSY no host access changes a register other than STATUS, a buffer, PENDING or the phase; only
WIGN and the model's counter of free values can change, and STATUS shows BUSY and WIGN alone. -/
def Obligations.BusyHidesTheCommand : Prop :=
  ∀ (s : State) (as : List Access), s.phase = .busy →
    s.accessAll as = { s with wign := (s.accessAll as).wign, fresh := (s.accessAll as).fresh } ∧
      (s.BusyIsClean → (s.accessAll as).regRead 0x04 = if (s.accessAll as).wign then 0x00000005 else 0x00000001)

/-- R74, R117: the engine's step gives the same result whatever the host accessed between acceptance and completion. (Of a wire
frame run as an instruction, log entry 11, DEDUCED.) -/
def Obligations.AccessesWhileBusyDoNotChangeTheResult : Prop :=
  ∀ (i : Instr) (s : State) (as : List Access), s.phase = .busy →
    exec i (s.accessAll as) =
      mapNext (fun t => { t with wign := (s.accessAll as).wign, fresh := (s.accessAll as).fresh }) (exec i s)

/-- R115, R116: a BUSY block completes in bounded time once the host has finished, whatever number of host turns comes
first. That a BUSY engine steps when no turn is laid down is the model's choice (log entry 6), and that one with PENDING 9 to
15 completes is its reading (log entry 15, DEDUCED). -/
def Obligations.BusyBlockCompletes : Prop :=
  ∀ (n : Nat) (s : State), s.phase = .busy → s.inReset = false → s.turns = List.replicate n .host →
    s.host.script.length ≤ s.host.pc → (∀ k < s.inLen.toNat, (s.inBuf.byte k).isSome) →
    ∃ t, Sys2Proof.core.run (n + 1) s = .next t ∧ t.phase = .idle ∧ t.done = true

/-! ### The host's accesses (spec/20_memory.md, spec/10_state.md) -/

/-- R22, R62: the register map, and the offsets that name no register. -/
def Obligations.RegisterMapAndUnmappedOffsets : Prop :=
  (∀ r : Reg, regAt r.offset = some r) ∧ (∀ off, regAt off = none ↔ off % 4 ≠ 0 ∨ 0x40 ≤ off) ∧
    ∀ (s : State) (off : Nat) (v : Word), (off % 4 ≠ 0 ∨ 0x40 ≤ off) → s.regRead off = 0 ∧ s.regWrite off v = s

/-- R24, R220, R31: every field of STATUS at its place, reserved bits 0, the number of each error code, no code above 7, and
the number RES_KIND shows for each frame kind. -/
def Obligations.StatusFieldsAndTheirCodes : Prop :=
  ∀ s : State,
    (s.regRead 0x04).getLsbD 0 = decide (s.phase = .busy) ∧ (s.regRead 0x04).getLsbD 1 = s.done ∧
      (s.regRead 0x04).getLsbD 2 = s.wign ∧ (s.regRead 0x04).getLsbD 3 = s.valid ∧
      (s.regRead 0x04).getLsbD 4 = s.drop ∧ (s.regRead 0x04).extractLsb' 5 3 = 0 ∧
      (s.errcode = .none → (s.regRead 0x04).extractLsb' 8 4 = 0x0) ∧
      (s.errcode = .malformedShort → (s.regRead 0x04).extractLsb' 8 4 = 0x1) ∧
      (s.errcode = .malformedDigit → (s.regRead 0x04).extractLsb' 8 4 = 0x2) ∧
      (s.errcode = .unknownFrameType → (s.regRead 0x04).extractLsb' 8 4 = 0x3) ∧
      (s.errcode = .corruptedSegment → (s.regRead 0x04).extractLsb' 8 4 = 0x4) ∧
      (s.errcode = .invalidConfiguration → (s.regRead 0x04).extractLsb' 8 4 = 0x5) ∧
      (s.errcode = .lengthError → (s.regRead 0x04).extractLsb' 8 4 = 0x6) ∧
      (s.errcode = .illegalCommand → (s.regRead 0x04).extractLsb' 8 4 = 0x7) ∧
      ((s.regRead 0x04).extractLsb' 8 4).toNat ≤ 7 ∧ (s.regRead 0x04).extractLsb' 12 20 = 0 ∧
      (s.resKind = some .data → s.regRead 0x20 = 0) ∧ (s.resKind = some .ack → s.regRead 0x20 = 1) ∧
      (s.resKind = some .eof → s.regRead 0x20 = 2) ∧ (s.resKind = none → s.regRead 0x20 = 3)

/-- R24: a STATUS write is performed in every phase, changes only WIGN, and clears it when bit 2 is 1. -/
def Obligations.StatusWriteClearsWign : Prop :=
  ∀ (s : State) (v : Word), s.regWrite 0x04 v = { s with wign := s.wign && !v.getLsbD 2 }

/-- R25 to R27, R33 to R36, R39: an RW register written while IDLE reads back the bits it stores, and no other register
and no octet changes. -/
def Obligations.WrittenRegistersReadBack : Prop :=
  ∀ (s : State) (r : Reg) (v : Word), s.phase = .idle → r ∈ storingRegs →
    (s.regWrite r.offset v).regRead r.offset = storedPart r v ∧
      (∀ q : Reg, q ≠ r → (s.regWrite r.offset v).regRead q.offset = s.regRead q.offset) ∧
      (s.regWrite r.offset v).phase = .idle ∧
      ∀ i, (s.regWrite r.offset v).inBuf.byte i = s.inBuf.byte i ∧
        (s.regWrite r.offset v).outBuf.byte i = s.outBuf.byte i

/-- R117: the writes that are lost while BUSY and set WIGN, and those that are ignored in every phase without a flag. -/
def Obligations.LostWritesSetWign : Prop :=
  (∀ (s : State) (r : Reg) (v : Word), s.phase = .busy → (r = .cmd ∨ r ∈ storingRegs) →
      s.regWrite r.offset v = { s with wign := true }) ∧
    (∀ (s : State) (i : Nat) (b : Byte), s.phase = .busy → i < s.params.inBufSize →
      s.inWrite i b = { s with wign := true }) ∧
    (∀ (s : State) (r : Reg) (v : Word), r ∈ readOnlyRegs → s.regWrite r.offset v = s) ∧
    ∀ (s : State) (i : Nat) (b : Byte), (s.params.inBufSize ≤ i → s.inWrite i b = s) ∧
      (s.access (.outWrite i b)).2 = s

/-- R61: octet reads and writes of the buffers, inside and outside, IDLE and BUSY. (An octet that holds no value reads as the
model's free value, U3.) -/
def Obligations.BufferAccessesMoveOneOctet : Prop :=
  ∀ (s : State) (i : Nat) (b : Byte),
    (s.phase = .idle → i < s.params.inBufSize →
        (∀ j, (s.inWrite i b).inBuf.byte j = if j = i then some b else s.inBuf.byte j) ∧
          s.inWrite i b = { s with inBuf := (s.inWrite i b).inBuf } ∧ (s.inWrite i b).inRead i = (b, s.inWrite i b) ∧
          (s.inBuf.wf → (s.inWrite i b).inBuf.wf)) ∧
      (s.phase = .busy → i < s.params.inBufSize → s.inWrite i b = { s with wign := true }) ∧
      (i < s.params.inBufSize → s.inBuf.byte i = some b → s.inRead i = (b, s)) ∧
      (i < s.params.outBufSize → s.outBuf.byte i = some b → s.outRead i = (b, s)) ∧
      (s.params.inBufSize ≤ i → s.inRead i = (0x00, s) ∧ s.inWrite i b = s) ∧
      (s.params.outBufSize ≤ i → s.outRead i = (0x00, s))

/-- R68: a host read changes nothing of the block; the model's counter of free values may move. -/
def Obligations.ReadsChangeNothing : Prop :=
  ∀ (s : State) (a : Access), isRead a = true → (s.access a).2 = { s with fresh := (s.access a).2.fresh }

/-- R60, R71, R94: the host's turn runs its line as one event. An access is performed, what a read returned is bound, and the
host goes to the next line; SET binds its value; GOTO moves to the label's line; a LABEL and an IF not taken go to the next
line; STOP changes nothing but the order of turns; and every line of a well-formed script completes. The model's choices: a
line that asks for a value the spec does not state goes on, with `fresh` moved past it (log entry 19, which the last clause
rests on); `labelLine` is the first of two lines with one label, an IF is taken on a value other than 0, and a script that
has run out stays as after STOP (log entry 9). -/
def Obligations.HostTurnRunsItsLine : Prop :=
  ∀ (s u : State), s.nextTurn = some .host →
    u = { s with turns := s.turns.tail, fresh := (s.host.action s.fresh).2 } →
    (∀ a x, s.inReset = false → (s.host.action s.fresh).1 = .access a x →
        step s = .next { (u.access a).2 with
          host := { s.host with pc := s.host.pc + 1, names := bindRead x (u.access a).1 s.host.names } }) ∧
      (∀ x v, (s.host.action s.fresh).1 = .set x v →
        step s = .next { u with
          host := { s.host with pc := s.host.pc + 1, names := setCell s.host.names x v } }) ∧
      (∀ l k, (s.host.action s.fresh).1 = .goto l → labelLine l s.host.script 0 = some k →
        step s = .next { u with host := { s.host with pc := k } }) ∧
      (∀ l, s.host.script[s.host.pc]? = some (.label l) →
        step s = .next { s with turns := s.turns.tail, host := { s.host with pc := s.host.pc + 1 } }) ∧
      (∀ c l, s.host.script[s.host.pc]? = some (.ifGoto c l) → (c.eval s.host.names s.fresh).1 = 0 →
        step s = .next { u with host := { s.host with pc := s.host.pc + 1 } }) ∧
      ((s.host.script[s.host.pc]? = some .stop ∨ s.host.script.length ≤ s.host.pc) →
        step s = .next { s with turns := s.turns.tail }) ∧
      (s.inReset = false → scriptWellFormed s.host.script = true → ∃ t, step s = .next t)

/-- U18: an access while the reset input is asserted stops the model, and with no turn laid down the block waits. That the
stop is the fault `accessInReset` is the model's reading (log entry 10, DEDUCED), and the waiting is its choice (log entry 6). -/
def Obligations.NoAccessWhileInReset : Prop :=
  ∀ s : State, s.inReset = true →
    (∀ a x, s.nextTurn = some .host → (s.host.action s.fresh).1 = .access a x → step s = .fault .accessInReset) ∧
      (s.turns = [] → step s = .next s)

/-! ### The codec commands (spec/41_codec.md) -/

/-- R130: ENC_DATA, both exits, for every MAX_PAYLOAD. -/
def Obligations.EncDataWritesADataFrame : Prop :=
  ∀ s : State, s.params.legal →
    (s.params.maxPayload < s.inLen.toNat →
        exec .encData s = .next { s with errcode := .lengthError, phase := .idle, done := true }) ∧
      ∀ P, s.inLen.toNat ≤ s.params.maxPayload → s.inBuf.bytes 0 s.inLen.toNat = some P →
        ∃ t, exec .encData s = .next t ∧ t.outLen.toNat = 64 + s.inLen.toNat ∧
          (∀ k, t.outBuf.byte k =
            if k < 64 + s.inLen.toNat then (encodeFrame .data s.argSeq s.argCsum P)[k]? else s.outBuf.byte k) ∧
          t = { s with outBuf := t.outBuf, outLen := t.outLen, errcode := .none, phase := .idle, done := true }

/-- R131: ENC_ACK, which always succeeds and reads ARG_SEQ alone. -/
def Obligations.EncAckWritesAnAckFrame : Prop :=
  ∀ s : State, ∃ t, exec .encAck s = .next t ∧ t.outLen = 64 ∧
    (∀ k, t.outBuf.byte k =
      if k < 64 then (digits s.argSeq ++ List.replicate 16 0x30 ++ FrameKind.ack.tag)[k]? else s.outBuf.byte k) ∧
    t = { s with outBuf := t.outBuf, outLen := t.outLen, errcode := .none, phase := .idle, done := true }

/-- R132: ENC_EOF, which always succeeds; the last 32 octets of the header are all '0'. -/
def Obligations.EncEofWritesAnEofFrame : Prop :=
  ∀ s : State, ∃ t, exec .encEof s = .next t ∧ t.outLen = 64 ∧
    (∀ k, t.outBuf.byte k =
      if k < 64 then (digits s.argSeq ++ List.replicate 32 0x30)[k]? else s.outBuf.byte k) ∧
    t = { s with outBuf := t.outBuf, outLen := t.outLen, errcode := .none, phase := .idle, done := true }

/-- R140: DECODE, every exit. That a frame of fewer than 64 octets is MALFORMED_SHORT also where its octets hold no value is
the model's reading (log entry 8, DEDUCED). -/
def Obligations.DecodeReportsTheFrame : Prop :=
  ∀ s : State,
    (s.params.inBufSize < s.inLen.toNat →
        exec .decode s = .next { s with errcode := .lengthError, phase := .idle, done := true }) ∧
      (s.inLen.toNat < 64 →
        exec .decode s = .next { s with
          resKind := none, resSeq := 0, resCsum := 0, resPlen := 0
          errcode := .malformedShort, phase := .idle, done := true }) ∧
      ∀ F, s.inLen.toNat ≤ s.params.inBufSize → s.inBuf.bytes 0 s.inLen.toNat = some F →
        (∀ e, decodeFrame F = .error e →
            exec .decode s = .next { s with
              resKind := none, resSeq := 0, resCsum := 0, resPlen := 0
              errcode := e.errCode, phase := .idle, done := true }) ∧
          ∀ f, decodeFrame F = .ok f →
            exec .decode s = .next { s with
              resKind := some f.kind, resSeq := f.seq, resCsum := f.csum
              resPlen := if f.kind = .data then s.inLen - 64 else 0
              errcode := .none, phase := .idle, done := true }

/-- A frame, run as the instruction its tag names, reports its fields. The meaning is the model's reading (log entry 11,
DEDUCED): what DECODE reports of the frame (R140, R141), with RES_PLEN modulo 2^32. -/
def Obligations.FramesReportTheirFields : Prop :=
  ∀ (s : State) (q : Word) (c : Half) (P : List Byte),
    exec (.frameData q c P) s = .next { s with
        resKind := some .data, resSeq := q, resCsum := c, resPlen := BitVec.ofNat 32 P.length
        errcode := .none, phase := .idle, done := true } ∧
      exec (.frameAck q c) s = .next { s with
        resKind := some .ack, resSeq := q, resCsum := c, resPlen := 0
        errcode := .none, phase := .idle, done := true } ∧
      exec (.frameEof q c) s = .next { s with
        resKind := some .eof, resSeq := q, resCsum := c, resPlen := 0
        errcode := .none, phase := .idle, done := true }

/-- R86, R140, R142: DECODE of the encoding of a well-formed frame that fits the block is that frame's own meaning, which is
the model's reading (log entry 11, DEDUCED). -/
def Obligations.DecodeRunsTheEncodedFrame : Prop :=
  ∀ (s : State) (i : Instr) (F : List Byte), i.wellFormed = true → i.fits s.params = true → encode i = .frame F →
    s.inLen.toNat = F.length → s.inBuf.bytes 0 F.length = some F → exec .decode s = exec i s

/-- R131, R132, R140, R142: what an encoder wrote, copied by the host to IN_BUF, decodes to the operands it was given. -/
def Obligations.EncodersRoundTripThroughDecode : Prop :=
  ∀ (i : Instr) (s t u : State), s.params.legal → (i = .encData ∨ i = .encAck ∨ i = .encEof) →
    exec i s = .next t → t.errcode = .none → u.params = s.params → u.inLen = t.outLen →
    (∀ k < t.outLen.toNat, u.inBuf.byte k = t.outBuf.byte k) →
    ∃ v, exec .decode u = .next v ∧ v.errcode = .none ∧ v.resSeq = s.argSeq ∧
      v.resKind = some (if i = .encData then .data else if i = .encAck then .ack else .eof) ∧
      v.resCsum = (if i = .encData then s.argCsum else 0) ∧ v.resPlen = if i = .encData then s.inLen else 0

/-! ### The checksum commands (spec/42_checksum.md) -/

/-- R170: CSUM_COMPUTE, both exits. -/
def Obligations.CsumComputeWritesTheChecksum : Prop :=
  ∀ s : State,
    (s.params.inBufSize < s.inLen.toNat →
        exec .csumCompute s = .next { s with errcode := .lengthError, phase := .idle, done := true }) ∧
      ∀ P, s.inLen.toNat ≤ s.params.inBufSize → s.inBuf.bytes 0 s.inLen.toNat = some P →
        exec .csumCompute s = .next { s with
          resCsum := computeChecksum P, errcode := .none, phase := .idle, done := true }

/-- R171: CSUM_VALIDATE, its three exits; RES_CSUM is written on a mismatch too. -/
def Obligations.CsumValidateComparesTheChecksum : Prop :=
  ∀ s : State,
    (s.params.inBufSize < s.inLen.toNat →
        exec .csumValidate s = .next { s with errcode := .lengthError, phase := .idle, done := true }) ∧
      ∀ P, s.inLen.toNat ≤ s.params.inBufSize → s.inBuf.bytes 0 s.inLen.toNat = some P →
        (s.argCsum = computeChecksum P →
            exec .csumValidate s = .next { s with
              resCsum := computeChecksum P, valid := true, errcode := .none, phase := .idle, done := true }) ∧
          (s.argCsum ≠ computeChecksum P →
            exec .csumValidate s = .next { s with
              resCsum := computeChecksum P, errcode := .corruptedSegment, phase := .idle, done := true })

/-! ### The loss gate (spec/43_loss.md) -/

/-- R14: a draw is below 2^W_RAND, whatever the random source answers. -/
def Obligations.DrawsAreInRange : Prop :=
  ∀ s : State, s.draw < 2 ^ s.params.wRand

/-- R181 to R184, R190: LOSS_GATE in RANDOM mode for every draw, in PERIODIC mode, and under an illegal configuration. -/
def Obligations.LossGateGivesItsVerdict : Prop :=
  ∀ s : State,
    (s.lossMode = 0 → s.lossThresh.toNat ≤ 2 ^ s.params.wRand →
        exec .lossGate s = .next { s with
          drop := decide (s.draw ≤ s.lossThresh.toNat), lossCount := s.lossCount + 1, draws := s.draws + 1
          errcode := .none, phase := .idle, done := true }) ∧
      (s.lossMode = 1 → 1 ≤ s.lossPeriod.toNat →
        exec .lossGate s = .next { s with
          drop := decide ((s.lossCount.toNat + 1) % 2 ^ 32 % s.lossPeriod.toNat = 0), lossCount := s.lossCount + 1
          errcode := .none, phase := .idle, done := true }) ∧
      ((s.lossMode ≠ 0 ∨ 2 ^ s.params.wRand < s.lossThresh.toNat) → (s.lossMode ≠ 1 ∨ s.lossPeriod = 0) →
        exec .lossGate s = .next { s with errcode := .invalidConfiguration, phase := .idle, done := true })

/-- R182, for every draw: P = 2^W_RAND drops every frame, P = 0 drops the frame exactly when the draw is 0. -/
def Obligations.RandomModeAtItsExtremes : Prop :=
  ∀ s : State, s.lossMode = 0 →
    (s.lossThresh.toNat = 2 ^ s.params.wRand → ∃ t, exec .lossGate s = .next t ∧ t.drop = true) ∧
      (s.lossThresh = 0 → ∃ t, exec .lossGate s = .next t ∧ (t.drop = true ↔ s.draw = 0))

/-- R183: from LOSS_COUNT = 0 in PERIODIC mode the K-th, 2K-th, ... consultations drop and no others, up to the wrap. -/
def Obligations.PeriodicModeDropsEveryKth : Prop :=
  ∀ (n : Nat) (s : State), s.lossMode = 1 → 1 ≤ s.lossPeriod.toNat → s.lossCount = 0 → n < 2 ^ 32 →
    gateVerdicts n s = (List.range n).map fun m => decide ((m + 1) % s.lossPeriod.toNat = 0)

/-- R180, R181, R184, R185: the count advances on every consultation that passes the configuration check, and only then;
a draw is taken only by one of those in RANDOM mode. (That a wire frame runs as an instruction is log entry 11, DEDUCED.) -/
def Obligations.OnlyConsultationsCountAndDraw : Prop :=
  ∀ (i : Instr) (s t : State), exec i s = .next t →
    (Consults i s → t.lossCount.toNat = (s.lossCount.toNat + 1) % 2 ^ 32 ∧
        t.draws = if s.lossMode = 0 then s.draws + 1 else s.draws) ∧
      (¬Consults i s → t.lossCount = s.lossCount ∧ t.draws = s.draws)

/-! ### The receive path (spec/44_receive_path.md) -/

/-- R200, R201: the exits of RX_FRAME, with the flags as acceptance left them (R114). That a frame of fewer than 64 octets is
MALFORMED_SHORT, and a dropped one ends, also where octets hold no value is the model's reading (log entries 8 and 5,
DEDUCED). -/
def Obligations.RxFrameOutcomes : Prop :=
  ∀ s : State, s.valid = false → s.drop = false →
    (s.params.inBufSize < s.inLen.toNat →
        exec .rxFrame s = .next { s with errcode := .lengthError, phase := .idle, done := true }) ∧
      (s.inLen.toNat ≤ s.params.inBufSize → ¬s.GateConfigured →
        exec .rxFrame s = .next { s with errcode := .invalidConfiguration, phase := .idle, done := true }) ∧
      (s.inLen.toNat ≤ s.params.inBufSize → s.GateConfigured → s.gateDrops = true →
        exec .rxFrame s = .next { s with
          drop := true, resKind := none, resSeq := 0, resCsum := 0, resPlen := 0
          lossCount := s.lossCount + 1, draws := s.drawsAfter, errcode := .none, phase := .idle, done := true }) ∧
      (s.inLen.toNat < 64 → s.GateConfigured → s.gateDrops = false →
        exec .rxFrame s = .next { s with
          resKind := none, resSeq := 0, resCsum := 0, resPlen := 0
          lossCount := s.lossCount + 1, draws := s.drawsAfter
          errcode := .malformedShort, phase := .idle, done := true }) ∧
      ∀ F, s.inLen.toNat ≤ s.params.inBufSize → s.GateConfigured → s.gateDrops = false →
        s.inBuf.bytes 0 s.inLen.toNat = some F →
        (∀ e, decodeFrame F = .error e →
            exec .rxFrame s = .next { s with
              resKind := none, resSeq := 0, resCsum := 0, resPlen := 0
              lossCount := s.lossCount + 1, draws := s.drawsAfter
              errcode := e.errCode, phase := .idle, done := true }) ∧
          ∀ f, decodeFrame F = .ok f →
            exec .rxFrame s = .next { s with
              valid := decide (f.kind = .data ∧ f.csum = computeChecksum f.payload)
              resKind := some f.kind, resSeq := f.seq, resCsum := f.csum
              resPlen := if f.kind = .data then s.inLen - 64 else 0
              lossCount := s.lossCount + 1, draws := s.drawsAfter
              errcode := if f.kind = .data ∧ f.csum ≠ computeChecksum f.payload then .corruptedSegment else .none
              phase := .idle, done := true }

/-- R202: RX_FRAME is LOSS_GATE, then, when the gate passes, DECODE, and for DATA CSUM_VALIDATE over the payload octets with
ARG_CSUM the decoded checksum; with R202's exceptions (RES_* on a drop, RES_CSUM on a mismatch, IN_LEN within IN_BUF). -/
def Obligations.RxFrameIsGateThenDecodeThenValidate : Prop :=
  ∀ s g : State, s.inLen.toNat ≤ s.params.inBufSize → s.drop = false → exec .lossGate s = .next g →
    (g.errcode ≠ .none → exec .rxFrame s = .next g) ∧
      (g.errcode = .none → g.drop = true →
        exec .rxFrame s = .next { g with resKind := none, resSeq := 0, resCsum := 0, resPlen := 0 }) ∧
      (g.errcode = .none → g.drop = false → ∀ d, exec .decode g = .next d →
        ((d.errcode ≠ .none ∨ d.resKind ≠ some .data) → exec .rxFrame s = .next d) ∧
          (d.errcode = .none → d.resKind = some .data →
            ∀ u : State, u.params = s.params → u.valid = s.valid → u.argCsum = d.resCsum → u.inLen = d.resPlen →
              u.inBuf.bytes 0 d.resPlen.toNat = s.inBuf.bytes 64 d.resPlen.toNat →
              ∃ v, exec .csumValidate u = .next v ∧
                exec .rxFrame s = .next { d with valid := v.valid, errcode := v.errcode }))
end

