-- ==== Sys2Proof/Laws/Checksum.lean ====
section
/-! SUPPORT. The laws of the folded sum: its range, and one addition modulo 0xFFFF. -/

namespace Sys2Proof

theorem payloadWords_lt {P : List Byte} {w : Nat} (h : w ∈ payloadWords P) : w ≤ 0xFFFF := by
  induction P using payloadWords.induct with
  | case1 => simp [payloadWords] at h
  | case2 a => have := a.isLt; simp [payloadWords] at h; omega
  | case3 a b rest ih =>
    have := a.isLt; have := b.isLt
    simp only [payloadWords, List.mem_cons] at h
    rcases h with h | h
    · omega
    · exact ih h

/-- One addition with end-around carry stays in 16 bits (R161: "the carry is always exactly 1"). -/
theorem foldAdd_le {S w : Nat} (hS : S ≤ 0xFFFF) (hw : w ≤ 0xFFFF) : foldAdd S w ≤ 0xFFFF := by
  unfold foldAdd; split <;> omega

theorem foldl_foldAdd_le (ws : List Nat) {S : Nat} (hS : S ≤ 0xFFFF) (h : ∀ w ∈ ws, w ≤ 0xFFFF) :
    ws.foldl foldAdd S ≤ 0xFFFF := by
  induction ws generalizing S with
  | nil => exact hS
  | cons w ws ih => exact ih (foldAdd_le hS (h w (by simp))) fun x hx => h x (by simp [hx])

theorem foldedSum_le (P : List Byte) : foldedSum P ≤ 0xFFFF :=
  foldl_foldAdd_le _ (by omega) fun _ => payloadWords_lt

/-- One addition is addition modulo 0xFFFF, with 0 kept apart from 0xFFFF. -/
theorem foldAdd_eq {S w : Nat} (hS : S ≤ 0xFFFF) (hw : w ≤ 0xFFFF) :
    foldAdd S w = if S + w = 0 then 0 else (S + w - 1) % 0xFFFF + 1 := by
  unfold foldAdd; split <;> split <;> omega

theorem payloadWords_append {A : List Byte} (B : List Byte) (h : A.length % 2 = 0) :
    payloadWords (A ++ B) = payloadWords A ++ payloadWords B := by
  induction A using payloadWords.induct with
  | case1 => simp [payloadWords]
  | case2 a => simp at h
  | case3 a b rest ih =>
    simp only [List.length_cons] at h
    simp [payloadWords, ih (by omega)]

end Sys2Proof
end

