-- ==== Sys2Proof/Laws/Codec.lean ====
section
/-! SUPPORT. The laws of digit octets, headers and tags: lengths, digits read back, the value digits spell. -/

namespace Sys2Proof

theorem slice_length (B : List Byte) (i j : Nat) : (slice B i j).length = min (j - i) (B.length - i) := by
  simp [slice]

theorem isDigit_ascii (b : Bool) : isDigit (ascii b) = true := by cases b <;> decide

theorem digit_ascii (b : Bool) : digit (ascii b) = b.toNat := by cases b <;> decide

theorem ascii_of_digit {b : Byte} (h : isDigit b = true) : ascii (digit b == 1) = b := by
  simp only [isDigit, Bool.or_eq_true, beq_iff_eq] at h
  rcases h with h | h <;> subst h <;> decide

@[simp] theorem length_digits {w : Nat} (v : BitVec w) : (digits v).length = w := by simp [digits]

@[simp] theorem length_tag (k : FrameKind) : k.tag.length = 16 := by simp [FrameKind.tag]

@[simp] theorem length_hdr (s : Word) (c T : Half) : (hdr s c T).length = 64 := by simp [hdr]

theorem getElem?_digits {w : Nat} (v : BitVec w) {j : Nat} (h : j < w) :
    (digits v)[j]? = some (ascii (v.getLsbD (w - 1 - j))) := by
  simp [digits, h]

theorem all_isDigit_digits {w : Nat} (v : BitVec w) : (digits v).all isDigit = true := by
  simp [digits, isDigit_ascii]

theorem fieldValue_append (A B : List Byte) :
    fieldValue (A ++ B) = fieldValue A * 2 ^ B.length + fieldValue B := by
  induction A with
  | nil => simp [fieldValue]
  | cons a A ih =>
    simp only [List.cons_append, fieldValue, ih, List.length_append]
    ring

theorem fieldValue_lt (A : List Byte) : fieldValue A < 2 ^ A.length := by
  induction A with
  | nil => simp [fieldValue]
  | cons a A ih =>
    have hd : digit a ≤ 1 := by unfold digit; split <;> omega
    simp only [fieldValue, List.length_cons, Nat.pow_succ]
    nlinarith [Nat.mul_le_mul_right (2 ^ A.length) hd]

/-- The digits of a one-bit wider value: its top bit, then the digits of the rest. -/
theorem digits_succ {w : Nat} (v : BitVec (w + 1)) :
    digits v = ascii (v.getLsbD w) :: digits (v.setWidth w) := by
  apply List.ext_getElem?
  intro j
  cases j with
  | zero => simp [digits, List.range_succ_eq_map]
  | succ j =>
    by_cases h : j < w
    · rw [List.getElem?_cons_succ, getElem?_digits _ h, getElem?_digits v (by omega)]
      have : w + 1 - 1 - (j + 1) = w - 1 - j := by omega
      rw [this, BitVec.getLsbD_setWidth]
      simp [show w - 1 - j < w by omega]
    · rw [List.getElem?_eq_none (by simp; omega), List.getElem?_eq_none (by simp; omega)]

/-- The digits of a value spell it. -/
theorem fieldValue_digits {w : Nat} (v : BitVec w) : fieldValue (digits v) = v.toNat := by
  induction w with
  | zero => simp [digits, fieldValue, BitVec.eq_nil v]
  | succ w ih =>
    rw [digits_succ, fieldValue, ih, digit_ascii, length_digits, BitVec.toNat_setWidth]
    have hv := v.isLt
    have hbit : (v.getLsbD w).toNat = v.toNat / 2 ^ w := by
      have h2 : v.toNat / 2 ^ w < 2 := by
        rw [Nat.div_lt_iff_lt_mul (by positivity)]; rw [Nat.pow_succ] at hv; omega
      rw [BitVec.getLsbD, Nat.testBit_eq_decide_div_mod_eq, Nat.mod_eq_of_lt h2]
      interval_cases h : v.toNat / 2 ^ w <;> simp
    rw [hbit, Nat.mul_comm]
    exact Nat.div_add_mod v.toNat (2 ^ w)

/-- Digit octets are the digits of the value they spell. -/
theorem digits_fieldValue (A : List Byte) (h : A.all isDigit = true) :
    digits (BitVec.ofNat A.length (fieldValue A)) = A := by
  induction A with
  | nil => simp [digits]
  | cons a A ih =>
    simp only [List.all_cons, Bool.and_eq_true] at h
    have hlt := fieldValue_lt A
    have hd : digit a = 0 ∨ digit a = 1 := by unfold digit; split <;> simp
    rw [List.length_cons, digits_succ]
    congr 1
    · rw [← ascii_of_digit h.1]
      congr 1
      have h2 : 2 ^ A.length < 2 ^ (A.length + 1) := by rw [Nat.pow_succ]; omega
      rw [BitVec.getLsbD_ofNat, fieldValue]
      simp only [show A.length < A.length + 1 by omega, decide_true, Bool.true_and]
      rw [Nat.testBit_eq_decide_div_mod_eq, Nat.mul_comm,
        Nat.mul_add_div (by positivity), Nat.div_eq_of_lt hlt, ascii_of_digit h.1]
      rcases hd with hd | hd <;> simp [hd]
    · refine (congrArg digits (BitVec.eq_of_toNat_eq ?_)).trans (ih h.2)
      simp only [BitVec.toNat_setWidth, BitVec.toNat_ofNat, fieldValue]
      rw [Nat.mod_mod_of_dvd _ (Nat.pow_dvd_pow 2 (by omega)), Nat.mul_add_mod_self_right]

theorem classifyTag_tag (k : FrameKind) : classifyTag k.tag = some k := by cases k <;> decide

theorem tag_of_classifyTag {T : List Byte} {k : FrameKind} (h : classifyTag T = some k) : T = k.tag := by
  unfold classifyTag at h
  split at h
  · cases h; assumption
  · split at h
    · cases h; assumption
    · split at h
      · cases h; assumption
      · cases h

theorem slice_hdr_tag (s : Word) (c T : Half) (P : List Byte) :
    slice (hdr s c T ++ P) 48 64 = digits T := by
  have : (digits s ++ digits c ++ digits T ++ P).drop 48 = digits T ++ P := by
    rw [List.append_assoc]; exact List.drop_left' (by simp)
  rw [slice, hdr, this]
  exact List.take_left' (by simp)

theorem slice_hdr_digits (s : Word) (c T : Half) (P : List Byte) :
    slice (hdr s c T ++ P) 0 48 = digits s ++ digits c := by
  rw [slice, hdr, List.drop_zero, List.append_assoc]
  exact List.take_left' (by simp)

theorem slice_hdr_seq (s : Word) (c T : Half) (P : List Byte) :
    slice (hdr s c T ++ P) 0 32 = digits s := by
  rw [slice, hdr, List.drop_zero, List.append_assoc, List.append_assoc]
  exact List.take_left' (by simp)

theorem slice_hdr_csum (s : Word) (c T : Half) (P : List Byte) :
    slice (hdr s c T ++ P) 32 48 = digits c := by
  have : (digits s ++ digits c ++ digits T ++ P).drop 32 = digits c ++ (digits T ++ P) := by
    rw [List.append_assoc, List.append_assoc]; exact List.drop_left' (by simp)
  rw [slice, hdr, this]
  exact List.take_left' (by simp)

theorem drop_hdr (s : Word) (c T : Half) (P : List Byte) : (hdr s c T ++ P).drop 64 = P :=
  List.drop_left' (by simp)

/-- A header followed by any octets decodes to its fields (R141). -/
theorem decodeFrame_hdr (s : Word) (c : Half) (k : FrameKind) (P : List Byte) :
    decodeFrame (hdr s c k.tagValue ++ P) =
      .ok { kind := k, seq := s, csum := c, payload := if k = .data then P else [] } := by
  have hk : classifyTag (digits k.tagValue) = some k := classifyTag_tag k
  simp only [hk, decodeFrame, slice_hdr_tag, slice_hdr_digits, slice_hdr_seq, slice_hdr_csum, drop_hdr,
    List.all_append, all_isDigit_digits, fieldValue_digits, BitVec.ofNat_toNat, BitVec.setWidth_eq]
  simp [hdrLen]

theorem encodeFrame_length (k : FrameKind) (s : Word) (c : Half) (P : List Byte) :
    (encodeFrame k s c P).length = hdrLen + if k = .data then P.length else 0 := by
  cases k <;> simp [encodeFrame, hdrLen]

/-- Every way a frame decodes or fails (R141). -/
theorem decodeFrame_cases (F : List Byte) :
    (F.length < 64 ∧ decodeFrame F = .error .malformedShort) ∨
      (64 ≤ F.length ∧ classifyTag (slice F 48 64) = none ∧ decodeFrame F = .error .unknownFrameType) ∨
      (64 ≤ F.length ∧ ∃ k, slice F 48 64 = k.tag ∧
        ((slice F 0 48).all isDigit = false ∧ decodeFrame F = .error .malformedDigit ∨
          (slice F 0 48).all isDigit = true ∧
            decodeFrame F = .ok
              { kind := k, seq := BitVec.ofNat 32 (fieldValue (slice F 0 32)),
                csum := BitVec.ofNat 16 (fieldValue (slice F 32 48)),
                payload := if k = .data then F.drop 64 else [] })) := by
  unfold decodeFrame
  by_cases hlen : F.length < 64
  · simp [hlen, hdrLen]
  · cases hc : classifyTag (slice F 48 64) with
    | none => simp [hlen, hdrLen, Nat.not_lt.1 hlen]
    | some k =>
      have ht := tag_of_classifyTag hc
      refine .inr (.inr ⟨Nat.not_lt.1 hlen, k, ht, ?_⟩)
      cases hd : (slice F 0 48).all isDigit <;> simp [hlen, hdrLen]

end Sys2Proof
end

