-- ==== Sys2Proof/Laws/Memory.lean ====
section
/-! SUPPORT. The laws of the buffers: read after write, locality, and the canonical form that every operation keeps. -/

namespace Sys2Proof.Machine

section Cells
variable {α : Type}

@[simp] theorem cellAt_nil (a : Nat) : cellAt ([] : List (Nat × α)) a = none := rfl

theorem cellAt_setCell_self (m : List (Nat × α)) (a : Nat) (v : α) : cellAt (setCell m a v) a = some v := by
  induction m with
  | nil => simp [setCell, cellAt]
  | cons c rest ih =>
    unfold setCell
    split
    · simp [cellAt]
    · split
      · simp [cellAt]
      · next h => simp [cellAt, Ne.symm h, ih]

theorem cellAt_setCell_ne (m : List (Nat × α)) {a b : Nat} (v : α) (h : b ≠ a) :
    cellAt (setCell m a v) b = cellAt m b := by
  induction m with
  | nil => simp [setCell, cellAt, Ne.symm h]
  | cons c rest ih =>
    unfold setCell
    split
    · simp [cellAt, Ne.symm h]
    · split
      · next e => subst e; simp [cellAt, Ne.symm h]
      · simp [cellAt, ih]

/-- Reading a cell after a write: the value written at its index, the old one elsewhere. -/
theorem cellAt_setCell (m : List (Nat × α)) (a b : Nat) (v : α) :
    cellAt (setCell m a v) b = if b = a then some v else cellAt m b := by
  split
  · next h => subst h; exact cellAt_setCell_self m b v
  · next h => exact cellAt_setCell_ne m v h

theorem mem_setCell {m : List (Nat × α)} {a : Nat} {v : α} {c : Nat × α} (h : c ∈ setCell m a v) :
    c = (a, v) ∨ c ∈ m := by
  induction m with
  | nil => simpa [setCell] using h
  | cons d rest ih =>
    unfold setCell at h
    split at h
    · simpa using h
    · split at h
      · rcases List.mem_cons.1 h with h | h <;> simp [h]
      · rcases List.mem_cons.1 h with h | h
        · simp [h]
        · rcases ih h with h | h <;> simp [h]

/-- A write keeps the indices strictly rising. -/
theorem pairwise_setCell {m : List (Nat × α)} (a : Nat) (v : α) (h : m.Pairwise fun x y => x.1 < y.1) :
    (setCell m a v).Pairwise fun x y => x.1 < y.1 := by
  induction m with
  | nil => simp [setCell]
  | cons c rest ih =>
    obtain ⟨hc, hrest⟩ := List.pairwise_cons.1 h
    unfold setCell
    split
    · next hlt =>
      refine List.pairwise_cons.2 ⟨fun y hy => ?_, h⟩
      rcases List.mem_cons.1 hy with hy | hy
      · exact hy ▸ hlt
      · exact Nat.lt_trans hlt (hc y hy)
    · split
      · next e => exact List.pairwise_cons.2 ⟨fun y hy => e ▸ hc y hy, hrest⟩
      · next hge hne =>
        refine List.pairwise_cons.2 ⟨fun y hy => ?_, ih hrest⟩
        rcases mem_setCell hy with hy | hy
        · subst hy; exact Nat.lt_of_le_of_ne (Nat.not_lt.1 hge) (Ne.symm hne)
        · exact hc y hy

/-- In the canonical form two memories that read alike are equal. -/
theorem eq_of_cellAt_eq {m k : List (Nat × α)} (hm : m.Pairwise fun x y => x.1 < y.1)
    (hk : k.Pairwise fun x y => x.1 < y.1) (h : ∀ a, cellAt m a = cellAt k a) : m = k := by
  have none_below : ∀ {l : List (Nat × α)} {a : Nat}, (∀ y ∈ l, a < y.1) → cellAt l a = none := by
    intro l a hl
    induction l with
    | nil => rfl
    | cons c l ih =>
      have hca := hl c (by simp)
      simp [cellAt, Nat.ne_of_gt hca, ih fun y hy => hl y (by simp [hy])]
  induction m generalizing k with
  | nil =>
    cases k with
    | nil => rfl
    | cons d k => simpa [cellAt] using h d.1
  | cons c m ih =>
    cases k with
    | nil => simpa [cellAt] using h c.1
    | cons d k =>
      obtain ⟨hc, hm'⟩ := List.pairwise_cons.1 hm
      obtain ⟨hd, hk'⟩ := List.pairwise_cons.1 hk
      have hcd : c.1 = d.1 := by
        rcases Nat.lt_trichotomy c.1 d.1 with hlt | heq | hgt
        · have := h c.1
          rw [none_below (l := d :: k) (by
            intro y hy; rcases List.mem_cons.1 hy with hy | hy
            · exact hy ▸ hlt
            · exact Nat.lt_trans hlt (hd y hy))] at this
          simp [cellAt] at this
        · exact heq
        · have := h d.1
          rw [none_below (l := c :: m) (by
            intro y hy; rcases List.mem_cons.1 hy with hy | hy
            · exact hy ▸ hgt
            · exact Nat.lt_trans hgt (hc y hy))] at this
          simp [cellAt] at this
      have hv : c.2 = d.2 := by simpa [cellAt, hcd] using h c.1
      have htail : m = k := by
        refine ih hm' hk' fun a => ?_
        by_cases ha : c.1 = a
        · rw [none_below (fun y hy => ha ▸ hc y hy), none_below (fun y hy => ha ▸ hcd ▸ hd y hy)]
        · simpa [cellAt, ha, hcd ▸ ha] using h a
      rw [htail, Prod.ext hcd hv]

end Cells

namespace Memory

theorem byte_setByte (m : Memory) (i j : Nat) (v : Byte) :
    (m.setByte i v).byte j = if j = i then some v else m.byte j := cellAt_setCell m i j v

theorem wf_setByte {m : Memory} (i : Nat) (v : Byte) (h : m.wf) : (m.setByte i v).wf := pairwise_setCell i v h

theorem fits_setByte {m : Memory} {i n : Nat} (v : Byte) (h : ∀ c ∈ m, c.1 < n) (hi : i < n) :
    ∀ c ∈ m.setByte i v, c.1 < n := by
  intro c hc
  rcases mem_setCell hc with hc | hc
  · exact hc ▸ hi
  · exact h c hc

/-- Reading an octet after octets were written from index `i` up. -/
theorem byte_setBytes (m : Memory) (i j : Nat) (B : List Byte) :
    (m.setBytes i B).byte j = if i ≤ j ∧ j < i + B.length then B[j - i]? else m.byte j := by
  induction B generalizing m i with
  | nil => simp only [setBytes, List.length_nil]; rw [if_neg (by omega)]
  | cons b rest ih =>
    simp only [setBytes, ih, byte_setByte, List.length_cons]
    rcases Nat.lt_trichotomy j i with h | h | h
    · rw [if_neg (by omega), if_neg (by omega), if_neg (by omega)]
    · subst h; rw [if_neg (by omega), if_pos rfl, if_pos (by omega)]; simp
    · have hj : j - i = (j - (i + 1)) + 1 := by omega
      rw [hj, List.getElem?_cons_succ, if_neg (by omega : ¬j = i)]
      by_cases hlt : j < i + (rest.length + 1)
      · rw [if_pos (by omega), if_pos (by omega)]
      · rw [if_neg (by omega), if_neg (by omega)]

theorem wf_setBytes {m : Memory} (i : Nat) (B : List Byte) (h : m.wf) : (m.setBytes i B).wf := by
  induction B generalizing m i with
  | nil => exact h
  | cons b rest ih => exact ih (i + 1) (wf_setByte i b h)

theorem fits_setBytes {m : Memory} {i n : Nat} (B : List Byte) (h : ∀ c ∈ m, c.1 < n) (hi : i + B.length ≤ n) :
    ∀ c ∈ m.setBytes i B, c.1 < n := by
  induction B generalizing m i with
  | nil => exact h
  | cons b rest ih =>
    simp only [List.length_cons] at hi
    exact ih (fits_setByte b h (by omega)) (by omega)

/-- What reading a range answers: the octets, every one of them listed. -/
theorem bytes_eq_some {m : Memory} {i n : Nat} {B : List Byte} :
    m.bytes i n = some B ↔ B.length = n ∧ ∀ k < n, m.byte (i + k) = B[k]? := by
  induction n generalizing i B with
  | zero =>
    simp only [bytes, Option.some.injEq, Nat.not_lt_zero, false_implies, implies_true, and_true]
    exact ⟨fun h => by simp [← h], fun h => (List.eq_nil_of_length_eq_zero h).symm⟩
  | succ n ih =>
    unfold bytes
    cases hb : m.byte i with
    | none =>
      simp only [reduceCtorEq, false_iff, not_and]
      intro hlen hall
      have h0 := hall 0 (by omega)
      rw [Nat.add_zero, hb, List.getElem?_eq_getElem (by omega)] at h0
      simp at h0
    | some b =>
      simp only [Option.map_eq_some_iff, ih]
      constructor
      · rintro ⟨rest, ⟨hlen, hall⟩, rfl⟩
        refine ⟨by simp [hlen], fun k hk => ?_⟩
        cases k with
        | zero => simp [hb]
        | succ k =>
          have := hall k (by omega)
          rw [show i + 1 + k = i + (k + 1) by omega] at this
          simpa using this
      · rintro ⟨hlen, hall⟩
        cases B with
        | nil => simp at hlen
        | cons c rest =>
          have h0 := hall 0 (by omega)
          simp only [Nat.add_zero, hb, List.getElem?_cons_zero, Option.some.injEq] at h0
          refine ⟨rest, ⟨by simpa using hlen, fun k hk => ?_⟩, by rw [h0]⟩
          have := hall (k + 1) (by omega)
          rw [show i + (k + 1) = i + 1 + k by omega] at this
          simpa using this

theorem length_of_bytes {m : Memory} {i n : Nat} {B : List Byte} (h : m.bytes i n = some B) : B.length = n :=
  (bytes_eq_some.1 h).1

/-- Reading a range answers nothing exactly when an octet of it holds no value. -/
theorem bytes_eq_none {m : Memory} {i n : Nat} : m.bytes i n = none ↔ ∃ k < n, m.byte (i + k) = none := by
  induction n generalizing i with
  | zero => simp [bytes]
  | succ n ih =>
    unfold bytes
    cases hb : m.byte i with
    | none => exact ⟨fun _ => ⟨0, by omega, by simpa using hb⟩, fun _ => rfl⟩
    | some b =>
      simp only [Option.map_eq_none_iff, ih]
      constructor
      · rintro ⟨k, hk, h⟩
        exact ⟨k + 1, by omega, by rw [← h]; congr 1; omega⟩
      · rintro ⟨k, hk, h⟩
        cases k with
        | zero => simp [hb] at h
        | succ k => exact ⟨k, by omega, by rw [← h]; congr 1; omega⟩

/-- A range reads alike in memories that agree on it. -/
theorem bytes_congr {m k : Memory} {i n : Nat} (h : ∀ j, i ≤ j → j < i + n → m.byte j = k.byte j) :
    m.bytes i n = k.bytes i n := by
  induction n generalizing i with
  | zero => rfl
  | succ n ih =>
    unfold bytes
    rw [h i (by omega) (by omega), ih fun j h1 h2 => h j (by omega) (by omega)]

/-- Octets written are read back. -/
theorem bytes_setBytes (m : Memory) (i : Nat) (B : List Byte) : (m.setBytes i B).bytes i B.length = some B := by
  refine bytes_eq_some.2 ⟨rfl, fun k hk => ?_⟩
  rw [byte_setBytes, if_pos (by omega), show i + k - i = k by omega]

end Memory

end Sys2Proof.Machine
end

