-- ==== Sys2Proof/Laws/State.lean ====
section
/-! SUPPORT. One lemma per field per shared update of State, so that no proof unfolds a record update. -/

namespace Sys2Proof.Machine.State

@[simp] theorem succeed_eq_finish (s : State) : s.succeed = s.finish .none := rfl

@[simp] theorem raise_eq_finish (e : ErrCode) (s : State) : s.raise e = s.finish e := rfl

@[simp] theorem dropFrame_eq_finish (s : State) : s.dropFrame = (s.clearResult.setDrop true).finish .none := rfl

@[simp] theorem finish_params (e : ErrCode) (s : State) : (s.finish e).params = s.params := rfl
@[simp] theorem finish_done (e : ErrCode) (s : State) : (s.finish e).done = true := rfl
@[simp] theorem finish_wign (e : ErrCode) (s : State) : (s.finish e).wign = s.wign := rfl
@[simp] theorem finish_valid (e : ErrCode) (s : State) : (s.finish e).valid = s.valid := rfl
@[simp] theorem finish_drop (e : ErrCode) (s : State) : (s.finish e).drop = s.drop := rfl
@[simp] theorem finish_errcode (e : ErrCode) (s : State) : (s.finish e).errcode = e := rfl
@[simp] theorem finish_argSeq (e : ErrCode) (s : State) : (s.finish e).argSeq = s.argSeq := rfl
@[simp] theorem finish_argCsum (e : ErrCode) (s : State) : (s.finish e).argCsum = s.argCsum := rfl
@[simp] theorem finish_inLen (e : ErrCode) (s : State) : (s.finish e).inLen = s.inLen := rfl
@[simp] theorem finish_outLen (e : ErrCode) (s : State) : (s.finish e).outLen = s.outLen := rfl
@[simp] theorem finish_resSeq (e : ErrCode) (s : State) : (s.finish e).resSeq = s.resSeq := rfl
@[simp] theorem finish_resCsum (e : ErrCode) (s : State) : (s.finish e).resCsum = s.resCsum := rfl
@[simp] theorem finish_resKind (e : ErrCode) (s : State) : (s.finish e).resKind = s.resKind := rfl
@[simp] theorem finish_resPlen (e : ErrCode) (s : State) : (s.finish e).resPlen = s.resPlen := rfl
@[simp] theorem finish_lossMode (e : ErrCode) (s : State) : (s.finish e).lossMode = s.lossMode := rfl
@[simp] theorem finish_lossThresh (e : ErrCode) (s : State) : (s.finish e).lossThresh = s.lossThresh := rfl
@[simp] theorem finish_lossPeriod (e : ErrCode) (s : State) : (s.finish e).lossPeriod = s.lossPeriod := rfl
@[simp] theorem finish_lossCount (e : ErrCode) (s : State) : (s.finish e).lossCount = s.lossCount := rfl
@[simp] theorem finish_phase (e : ErrCode) (s : State) : (s.finish e).phase = .idle := rfl
@[simp] theorem finish_pending (e : ErrCode) (s : State) : (s.finish e).pending = s.pending := rfl
@[simp] theorem finish_inBuf (e : ErrCode) (s : State) : (s.finish e).inBuf = s.inBuf := rfl
@[simp] theorem finish_outBuf (e : ErrCode) (s : State) : (s.finish e).outBuf = s.outBuf := rfl
@[simp] theorem finish_inReset (e : ErrCode) (s : State) : (s.finish e).inReset = s.inReset := rfl
@[simp] theorem finish_draws (e : ErrCode) (s : State) : (s.finish e).draws = s.draws := rfl
@[simp] theorem finish_fresh (e : ErrCode) (s : State) : (s.finish e).fresh = s.fresh := rfl
@[simp] theorem finish_host (e : ErrCode) (s : State) : (s.finish e).host = s.host := rfl
@[simp] theorem finish_turns (e : ErrCode) (s : State) : (s.finish e).turns = s.turns := rfl

@[simp] theorem emit_params (F : List Byte) (s : State) : (s.emit F).params = s.params := rfl
@[simp] theorem emit_done (F : List Byte) (s : State) : (s.emit F).done = s.done := rfl
@[simp] theorem emit_wign (F : List Byte) (s : State) : (s.emit F).wign = s.wign := rfl
@[simp] theorem emit_valid (F : List Byte) (s : State) : (s.emit F).valid = s.valid := rfl
@[simp] theorem emit_drop (F : List Byte) (s : State) : (s.emit F).drop = s.drop := rfl
@[simp] theorem emit_errcode (F : List Byte) (s : State) : (s.emit F).errcode = s.errcode := rfl
@[simp] theorem emit_argSeq (F : List Byte) (s : State) : (s.emit F).argSeq = s.argSeq := rfl
@[simp] theorem emit_argCsum (F : List Byte) (s : State) : (s.emit F).argCsum = s.argCsum := rfl
@[simp] theorem emit_inLen (F : List Byte) (s : State) : (s.emit F).inLen = s.inLen := rfl
@[simp] theorem emit_outLen (F : List Byte) (s : State) : (s.emit F).outLen = BitVec.ofNat 32 F.length := rfl
@[simp] theorem emit_resSeq (F : List Byte) (s : State) : (s.emit F).resSeq = s.resSeq := rfl
@[simp] theorem emit_resCsum (F : List Byte) (s : State) : (s.emit F).resCsum = s.resCsum := rfl
@[simp] theorem emit_resKind (F : List Byte) (s : State) : (s.emit F).resKind = s.resKind := rfl
@[simp] theorem emit_resPlen (F : List Byte) (s : State) : (s.emit F).resPlen = s.resPlen := rfl
@[simp] theorem emit_lossMode (F : List Byte) (s : State) : (s.emit F).lossMode = s.lossMode := rfl
@[simp] theorem emit_lossThresh (F : List Byte) (s : State) : (s.emit F).lossThresh = s.lossThresh := rfl
@[simp] theorem emit_lossPeriod (F : List Byte) (s : State) : (s.emit F).lossPeriod = s.lossPeriod := rfl
@[simp] theorem emit_lossCount (F : List Byte) (s : State) : (s.emit F).lossCount = s.lossCount := rfl
@[simp] theorem emit_phase (F : List Byte) (s : State) : (s.emit F).phase = s.phase := rfl
@[simp] theorem emit_pending (F : List Byte) (s : State) : (s.emit F).pending = s.pending := rfl
@[simp] theorem emit_inBuf (F : List Byte) (s : State) : (s.emit F).inBuf = s.inBuf := rfl
@[simp] theorem emit_outBuf (F : List Byte) (s : State) : (s.emit F).outBuf = s.outBuf.setBytes 0 F := rfl
@[simp] theorem emit_inReset (F : List Byte) (s : State) : (s.emit F).inReset = s.inReset := rfl
@[simp] theorem emit_draws (F : List Byte) (s : State) : (s.emit F).draws = s.draws := rfl
@[simp] theorem emit_fresh (F : List Byte) (s : State) : (s.emit F).fresh = s.fresh := rfl
@[simp] theorem emit_host (F : List Byte) (s : State) : (s.emit F).host = s.host := rfl
@[simp] theorem emit_turns (F : List Byte) (s : State) : (s.emit F).turns = s.turns := rfl

@[simp] theorem setResult_params (f : Frame) (s : State) : (s.setResult f).params = s.params := rfl
@[simp] theorem setResult_done (f : Frame) (s : State) : (s.setResult f).done = s.done := rfl
@[simp] theorem setResult_wign (f : Frame) (s : State) : (s.setResult f).wign = s.wign := rfl
@[simp] theorem setResult_valid (f : Frame) (s : State) : (s.setResult f).valid = s.valid := rfl
@[simp] theorem setResult_drop (f : Frame) (s : State) : (s.setResult f).drop = s.drop := rfl
@[simp] theorem setResult_errcode (f : Frame) (s : State) : (s.setResult f).errcode = s.errcode := rfl
@[simp] theorem setResult_argSeq (f : Frame) (s : State) : (s.setResult f).argSeq = s.argSeq := rfl
@[simp] theorem setResult_argCsum (f : Frame) (s : State) : (s.setResult f).argCsum = s.argCsum := rfl
@[simp] theorem setResult_inLen (f : Frame) (s : State) : (s.setResult f).inLen = s.inLen := rfl
@[simp] theorem setResult_outLen (f : Frame) (s : State) : (s.setResult f).outLen = s.outLen := rfl
@[simp] theorem setResult_resSeq (f : Frame) (s : State) : (s.setResult f).resSeq = f.seq := rfl
@[simp] theorem setResult_resCsum (f : Frame) (s : State) : (s.setResult f).resCsum = f.csum := rfl
@[simp] theorem setResult_resKind (f : Frame) (s : State) : (s.setResult f).resKind = some f.kind := rfl
@[simp] theorem setResult_resPlen (f : Frame) (s : State) : (s.setResult f).resPlen = BitVec.ofNat 32 f.payload.length := rfl
@[simp] theorem setResult_lossMode (f : Frame) (s : State) : (s.setResult f).lossMode = s.lossMode := rfl
@[simp] theorem setResult_lossThresh (f : Frame) (s : State) : (s.setResult f).lossThresh = s.lossThresh := rfl
@[simp] theorem setResult_lossPeriod (f : Frame) (s : State) : (s.setResult f).lossPeriod = s.lossPeriod := rfl
@[simp] theorem setResult_lossCount (f : Frame) (s : State) : (s.setResult f).lossCount = s.lossCount := rfl
@[simp] theorem setResult_phase (f : Frame) (s : State) : (s.setResult f).phase = s.phase := rfl
@[simp] theorem setResult_pending (f : Frame) (s : State) : (s.setResult f).pending = s.pending := rfl
@[simp] theorem setResult_inBuf (f : Frame) (s : State) : (s.setResult f).inBuf = s.inBuf := rfl
@[simp] theorem setResult_outBuf (f : Frame) (s : State) : (s.setResult f).outBuf = s.outBuf := rfl
@[simp] theorem setResult_inReset (f : Frame) (s : State) : (s.setResult f).inReset = s.inReset := rfl
@[simp] theorem setResult_draws (f : Frame) (s : State) : (s.setResult f).draws = s.draws := rfl
@[simp] theorem setResult_fresh (f : Frame) (s : State) : (s.setResult f).fresh = s.fresh := rfl
@[simp] theorem setResult_host (f : Frame) (s : State) : (s.setResult f).host = s.host := rfl
@[simp] theorem setResult_turns (f : Frame) (s : State) : (s.setResult f).turns = s.turns := rfl

@[simp] theorem clearResult_params (s : State) : (s.clearResult).params = s.params := rfl
@[simp] theorem clearResult_done (s : State) : (s.clearResult).done = s.done := rfl
@[simp] theorem clearResult_wign (s : State) : (s.clearResult).wign = s.wign := rfl
@[simp] theorem clearResult_valid (s : State) : (s.clearResult).valid = s.valid := rfl
@[simp] theorem clearResult_drop (s : State) : (s.clearResult).drop = s.drop := rfl
@[simp] theorem clearResult_errcode (s : State) : (s.clearResult).errcode = s.errcode := rfl
@[simp] theorem clearResult_argSeq (s : State) : (s.clearResult).argSeq = s.argSeq := rfl
@[simp] theorem clearResult_argCsum (s : State) : (s.clearResult).argCsum = s.argCsum := rfl
@[simp] theorem clearResult_inLen (s : State) : (s.clearResult).inLen = s.inLen := rfl
@[simp] theorem clearResult_outLen (s : State) : (s.clearResult).outLen = s.outLen := rfl
@[simp] theorem clearResult_resSeq (s : State) : (s.clearResult).resSeq = 0 := rfl
@[simp] theorem clearResult_resCsum (s : State) : (s.clearResult).resCsum = 0 := rfl
@[simp] theorem clearResult_resKind (s : State) : (s.clearResult).resKind = none := rfl
@[simp] theorem clearResult_resPlen (s : State) : (s.clearResult).resPlen = 0 := rfl
@[simp] theorem clearResult_lossMode (s : State) : (s.clearResult).lossMode = s.lossMode := rfl
@[simp] theorem clearResult_lossThresh (s : State) : (s.clearResult).lossThresh = s.lossThresh := rfl
@[simp] theorem clearResult_lossPeriod (s : State) : (s.clearResult).lossPeriod = s.lossPeriod := rfl
@[simp] theorem clearResult_lossCount (s : State) : (s.clearResult).lossCount = s.lossCount := rfl
@[simp] theorem clearResult_phase (s : State) : (s.clearResult).phase = s.phase := rfl
@[simp] theorem clearResult_pending (s : State) : (s.clearResult).pending = s.pending := rfl
@[simp] theorem clearResult_inBuf (s : State) : (s.clearResult).inBuf = s.inBuf := rfl
@[simp] theorem clearResult_outBuf (s : State) : (s.clearResult).outBuf = s.outBuf := rfl
@[simp] theorem clearResult_inReset (s : State) : (s.clearResult).inReset = s.inReset := rfl
@[simp] theorem clearResult_draws (s : State) : (s.clearResult).draws = s.draws := rfl
@[simp] theorem clearResult_fresh (s : State) : (s.clearResult).fresh = s.fresh := rfl
@[simp] theorem clearResult_host (s : State) : (s.clearResult).host = s.host := rfl
@[simp] theorem clearResult_turns (s : State) : (s.clearResult).turns = s.turns := rfl

@[simp] theorem accept_params (w : Word) (s : State) : (s.accept w).params = s.params := rfl
@[simp] theorem accept_done (w : Word) (s : State) : (s.accept w).done = false := rfl
@[simp] theorem accept_wign (w : Word) (s : State) : (s.accept w).wign = s.wign := rfl
@[simp] theorem accept_valid (w : Word) (s : State) : (s.accept w).valid = false := rfl
@[simp] theorem accept_drop (w : Word) (s : State) : (s.accept w).drop = false := rfl
@[simp] theorem accept_errcode (w : Word) (s : State) : (s.accept w).errcode = .none := rfl
@[simp] theorem accept_argSeq (w : Word) (s : State) : (s.accept w).argSeq = s.argSeq := rfl
@[simp] theorem accept_argCsum (w : Word) (s : State) : (s.accept w).argCsum = s.argCsum := rfl
@[simp] theorem accept_inLen (w : Word) (s : State) : (s.accept w).inLen = s.inLen := rfl
@[simp] theorem accept_outLen (w : Word) (s : State) : (s.accept w).outLen = s.outLen := rfl
@[simp] theorem accept_resSeq (w : Word) (s : State) : (s.accept w).resSeq = s.resSeq := rfl
@[simp] theorem accept_resCsum (w : Word) (s : State) : (s.accept w).resCsum = s.resCsum := rfl
@[simp] theorem accept_resKind (w : Word) (s : State) : (s.accept w).resKind = s.resKind := rfl
@[simp] theorem accept_resPlen (w : Word) (s : State) : (s.accept w).resPlen = s.resPlen := rfl
@[simp] theorem accept_lossMode (w : Word) (s : State) : (s.accept w).lossMode = s.lossMode := rfl
@[simp] theorem accept_lossThresh (w : Word) (s : State) : (s.accept w).lossThresh = s.lossThresh := rfl
@[simp] theorem accept_lossPeriod (w : Word) (s : State) : (s.accept w).lossPeriod = s.lossPeriod := rfl
@[simp] theorem accept_lossCount (w : Word) (s : State) : (s.accept w).lossCount = s.lossCount := rfl
@[simp] theorem accept_phase (w : Word) (s : State) : (s.accept w).phase = .busy := rfl
@[simp] theorem accept_pending (w : Word) (s : State) : (s.accept w).pending = if w.extractLsb' 4 28 = 0 ∧ 1 ≤ (w.setWidth 4).toNat ∧ (w.setWidth 4).toNat ≤ 8 then w.setWidth 4 else 0 := rfl
@[simp] theorem accept_inBuf (w : Word) (s : State) : (s.accept w).inBuf = s.inBuf := rfl
@[simp] theorem accept_outBuf (w : Word) (s : State) : (s.accept w).outBuf = s.outBuf := rfl
@[simp] theorem accept_inReset (w : Word) (s : State) : (s.accept w).inReset = s.inReset := rfl
@[simp] theorem accept_draws (w : Word) (s : State) : (s.accept w).draws = s.draws := rfl
@[simp] theorem accept_fresh (w : Word) (s : State) : (s.accept w).fresh = s.fresh := rfl
@[simp] theorem accept_host (w : Word) (s : State) : (s.accept w).host = s.host := rfl
@[simp] theorem accept_turns (w : Word) (s : State) : (s.accept w).turns = s.turns := rfl

@[simp] theorem resetBlock_params (s : State) : (s.resetBlock).params = s.params := rfl
@[simp] theorem resetBlock_done (s : State) : (s.resetBlock).done = false := rfl
@[simp] theorem resetBlock_wign (s : State) : (s.resetBlock).wign = false := rfl
@[simp] theorem resetBlock_valid (s : State) : (s.resetBlock).valid = false := rfl
@[simp] theorem resetBlock_drop (s : State) : (s.resetBlock).drop = false := rfl
@[simp] theorem resetBlock_errcode (s : State) : (s.resetBlock).errcode = .none := rfl
@[simp] theorem resetBlock_argSeq (s : State) : (s.resetBlock).argSeq = 0 := rfl
@[simp] theorem resetBlock_argCsum (s : State) : (s.resetBlock).argCsum = 0 := rfl
@[simp] theorem resetBlock_inLen (s : State) : (s.resetBlock).inLen = 0 := rfl
@[simp] theorem resetBlock_outLen (s : State) : (s.resetBlock).outLen = 0 := rfl
@[simp] theorem resetBlock_resSeq (s : State) : (s.resetBlock).resSeq = 0 := rfl
@[simp] theorem resetBlock_resCsum (s : State) : (s.resetBlock).resCsum = 0 := rfl
@[simp] theorem resetBlock_resKind (s : State) : (s.resetBlock).resKind = none := rfl
@[simp] theorem resetBlock_resPlen (s : State) : (s.resetBlock).resPlen = 0 := rfl
@[simp] theorem resetBlock_lossMode (s : State) : (s.resetBlock).lossMode = 0 := rfl
@[simp] theorem resetBlock_lossThresh (s : State) : (s.resetBlock).lossThresh = 0 := rfl
@[simp] theorem resetBlock_lossPeriod (s : State) : (s.resetBlock).lossPeriod = 0 := rfl
@[simp] theorem resetBlock_lossCount (s : State) : (s.resetBlock).lossCount = 0 := rfl
@[simp] theorem resetBlock_phase (s : State) : (s.resetBlock).phase = .idle := rfl
@[simp] theorem resetBlock_pending (s : State) : (s.resetBlock).pending = Config.resetPending s.fresh := rfl
@[simp] theorem resetBlock_inBuf (s : State) : (s.resetBlock).inBuf = [] := rfl
@[simp] theorem resetBlock_outBuf (s : State) : (s.resetBlock).outBuf = [] := rfl
@[simp] theorem resetBlock_inReset (s : State) : (s.resetBlock).inReset = s.inReset := rfl
@[simp] theorem resetBlock_draws (s : State) : (s.resetBlock).draws = s.draws := rfl
@[simp] theorem resetBlock_fresh (s : State) : (s.resetBlock).fresh = s.fresh + 1 := rfl
@[simp] theorem resetBlock_host (s : State) : (s.resetBlock).host = s.host := rfl
@[simp] theorem resetBlock_turns (s : State) : (s.resetBlock).turns = s.turns := rfl

@[simp] theorem popTurn_params (s : State) : (s.popTurn).params = s.params := rfl
@[simp] theorem popTurn_done (s : State) : (s.popTurn).done = s.done := rfl
@[simp] theorem popTurn_wign (s : State) : (s.popTurn).wign = s.wign := rfl
@[simp] theorem popTurn_valid (s : State) : (s.popTurn).valid = s.valid := rfl
@[simp] theorem popTurn_drop (s : State) : (s.popTurn).drop = s.drop := rfl
@[simp] theorem popTurn_errcode (s : State) : (s.popTurn).errcode = s.errcode := rfl
@[simp] theorem popTurn_argSeq (s : State) : (s.popTurn).argSeq = s.argSeq := rfl
@[simp] theorem popTurn_argCsum (s : State) : (s.popTurn).argCsum = s.argCsum := rfl
@[simp] theorem popTurn_inLen (s : State) : (s.popTurn).inLen = s.inLen := rfl
@[simp] theorem popTurn_outLen (s : State) : (s.popTurn).outLen = s.outLen := rfl
@[simp] theorem popTurn_resSeq (s : State) : (s.popTurn).resSeq = s.resSeq := rfl
@[simp] theorem popTurn_resCsum (s : State) : (s.popTurn).resCsum = s.resCsum := rfl
@[simp] theorem popTurn_resKind (s : State) : (s.popTurn).resKind = s.resKind := rfl
@[simp] theorem popTurn_resPlen (s : State) : (s.popTurn).resPlen = s.resPlen := rfl
@[simp] theorem popTurn_lossMode (s : State) : (s.popTurn).lossMode = s.lossMode := rfl
@[simp] theorem popTurn_lossThresh (s : State) : (s.popTurn).lossThresh = s.lossThresh := rfl
@[simp] theorem popTurn_lossPeriod (s : State) : (s.popTurn).lossPeriod = s.lossPeriod := rfl
@[simp] theorem popTurn_lossCount (s : State) : (s.popTurn).lossCount = s.lossCount := rfl
@[simp] theorem popTurn_phase (s : State) : (s.popTurn).phase = s.phase := rfl
@[simp] theorem popTurn_pending (s : State) : (s.popTurn).pending = s.pending := rfl
@[simp] theorem popTurn_inBuf (s : State) : (s.popTurn).inBuf = s.inBuf := rfl
@[simp] theorem popTurn_outBuf (s : State) : (s.popTurn).outBuf = s.outBuf := rfl
@[simp] theorem popTurn_inReset (s : State) : (s.popTurn).inReset = s.inReset := rfl
@[simp] theorem popTurn_draws (s : State) : (s.popTurn).draws = s.draws := rfl
@[simp] theorem popTurn_fresh (s : State) : (s.popTurn).fresh = s.fresh := rfl
@[simp] theorem popTurn_host (s : State) : (s.popTurn).host = s.host := rfl
@[simp] theorem popTurn_turns (s : State) : (s.popTurn).turns = s.turns.tail := rfl

@[simp] theorem setResCsum_params (c : Half) (s : State) : (s.setResCsum c).params = s.params := rfl
@[simp] theorem setResCsum_done (c : Half) (s : State) : (s.setResCsum c).done = s.done := rfl
@[simp] theorem setResCsum_wign (c : Half) (s : State) : (s.setResCsum c).wign = s.wign := rfl
@[simp] theorem setResCsum_valid (c : Half) (s : State) : (s.setResCsum c).valid = s.valid := rfl
@[simp] theorem setResCsum_drop (c : Half) (s : State) : (s.setResCsum c).drop = s.drop := rfl
@[simp] theorem setResCsum_errcode (c : Half) (s : State) : (s.setResCsum c).errcode = s.errcode := rfl
@[simp] theorem setResCsum_argSeq (c : Half) (s : State) : (s.setResCsum c).argSeq = s.argSeq := rfl
@[simp] theorem setResCsum_argCsum (c : Half) (s : State) : (s.setResCsum c).argCsum = s.argCsum := rfl
@[simp] theorem setResCsum_inLen (c : Half) (s : State) : (s.setResCsum c).inLen = s.inLen := rfl
@[simp] theorem setResCsum_outLen (c : Half) (s : State) : (s.setResCsum c).outLen = s.outLen := rfl
@[simp] theorem setResCsum_resSeq (c : Half) (s : State) : (s.setResCsum c).resSeq = s.resSeq := rfl
@[simp] theorem setResCsum_resCsum (c : Half) (s : State) : (s.setResCsum c).resCsum = c := rfl
@[simp] theorem setResCsum_resKind (c : Half) (s : State) : (s.setResCsum c).resKind = s.resKind := rfl
@[simp] theorem setResCsum_resPlen (c : Half) (s : State) : (s.setResCsum c).resPlen = s.resPlen := rfl
@[simp] theorem setResCsum_lossMode (c : Half) (s : State) : (s.setResCsum c).lossMode = s.lossMode := rfl
@[simp] theorem setResCsum_lossThresh (c : Half) (s : State) : (s.setResCsum c).lossThresh = s.lossThresh := rfl
@[simp] theorem setResCsum_lossPeriod (c : Half) (s : State) : (s.setResCsum c).lossPeriod = s.lossPeriod := rfl
@[simp] theorem setResCsum_lossCount (c : Half) (s : State) : (s.setResCsum c).lossCount = s.lossCount := rfl
@[simp] theorem setResCsum_phase (c : Half) (s : State) : (s.setResCsum c).phase = s.phase := rfl
@[simp] theorem setResCsum_pending (c : Half) (s : State) : (s.setResCsum c).pending = s.pending := rfl
@[simp] theorem setResCsum_inBuf (c : Half) (s : State) : (s.setResCsum c).inBuf = s.inBuf := rfl
@[simp] theorem setResCsum_outBuf (c : Half) (s : State) : (s.setResCsum c).outBuf = s.outBuf := rfl
@[simp] theorem setResCsum_inReset (c : Half) (s : State) : (s.setResCsum c).inReset = s.inReset := rfl
@[simp] theorem setResCsum_draws (c : Half) (s : State) : (s.setResCsum c).draws = s.draws := rfl
@[simp] theorem setResCsum_fresh (c : Half) (s : State) : (s.setResCsum c).fresh = s.fresh := rfl
@[simp] theorem setResCsum_host (c : Half) (s : State) : (s.setResCsum c).host = s.host := rfl
@[simp] theorem setResCsum_turns (c : Half) (s : State) : (s.setResCsum c).turns = s.turns := rfl

@[simp] theorem setValid_params (s : State) : (s.setValid).params = s.params := rfl
@[simp] theorem setValid_done (s : State) : (s.setValid).done = s.done := rfl
@[simp] theorem setValid_wign (s : State) : (s.setValid).wign = s.wign := rfl
@[simp] theorem setValid_valid (s : State) : (s.setValid).valid = true := rfl
@[simp] theorem setValid_drop (s : State) : (s.setValid).drop = s.drop := rfl
@[simp] theorem setValid_errcode (s : State) : (s.setValid).errcode = s.errcode := rfl
@[simp] theorem setValid_argSeq (s : State) : (s.setValid).argSeq = s.argSeq := rfl
@[simp] theorem setValid_argCsum (s : State) : (s.setValid).argCsum = s.argCsum := rfl
@[simp] theorem setValid_inLen (s : State) : (s.setValid).inLen = s.inLen := rfl
@[simp] theorem setValid_outLen (s : State) : (s.setValid).outLen = s.outLen := rfl
@[simp] theorem setValid_resSeq (s : State) : (s.setValid).resSeq = s.resSeq := rfl
@[simp] theorem setValid_resCsum (s : State) : (s.setValid).resCsum = s.resCsum := rfl
@[simp] theorem setValid_resKind (s : State) : (s.setValid).resKind = s.resKind := rfl
@[simp] theorem setValid_resPlen (s : State) : (s.setValid).resPlen = s.resPlen := rfl
@[simp] theorem setValid_lossMode (s : State) : (s.setValid).lossMode = s.lossMode := rfl
@[simp] theorem setValid_lossThresh (s : State) : (s.setValid).lossThresh = s.lossThresh := rfl
@[simp] theorem setValid_lossPeriod (s : State) : (s.setValid).lossPeriod = s.lossPeriod := rfl
@[simp] theorem setValid_lossCount (s : State) : (s.setValid).lossCount = s.lossCount := rfl
@[simp] theorem setValid_phase (s : State) : (s.setValid).phase = s.phase := rfl
@[simp] theorem setValid_pending (s : State) : (s.setValid).pending = s.pending := rfl
@[simp] theorem setValid_inBuf (s : State) : (s.setValid).inBuf = s.inBuf := rfl
@[simp] theorem setValid_outBuf (s : State) : (s.setValid).outBuf = s.outBuf := rfl
@[simp] theorem setValid_inReset (s : State) : (s.setValid).inReset = s.inReset := rfl
@[simp] theorem setValid_draws (s : State) : (s.setValid).draws = s.draws := rfl
@[simp] theorem setValid_fresh (s : State) : (s.setValid).fresh = s.fresh := rfl
@[simp] theorem setValid_host (s : State) : (s.setValid).host = s.host := rfl
@[simp] theorem setValid_turns (s : State) : (s.setValid).turns = s.turns := rfl

@[simp] theorem setDrop_params (d : Bool) (s : State) : (s.setDrop d).params = s.params := rfl
@[simp] theorem setDrop_done (d : Bool) (s : State) : (s.setDrop d).done = s.done := rfl
@[simp] theorem setDrop_wign (d : Bool) (s : State) : (s.setDrop d).wign = s.wign := rfl
@[simp] theorem setDrop_valid (d : Bool) (s : State) : (s.setDrop d).valid = s.valid := rfl
@[simp] theorem setDrop_drop (d : Bool) (s : State) : (s.setDrop d).drop = d := rfl
@[simp] theorem setDrop_errcode (d : Bool) (s : State) : (s.setDrop d).errcode = s.errcode := rfl
@[simp] theorem setDrop_argSeq (d : Bool) (s : State) : (s.setDrop d).argSeq = s.argSeq := rfl
@[simp] theorem setDrop_argCsum (d : Bool) (s : State) : (s.setDrop d).argCsum = s.argCsum := rfl
@[simp] theorem setDrop_inLen (d : Bool) (s : State) : (s.setDrop d).inLen = s.inLen := rfl
@[simp] theorem setDrop_outLen (d : Bool) (s : State) : (s.setDrop d).outLen = s.outLen := rfl
@[simp] theorem setDrop_resSeq (d : Bool) (s : State) : (s.setDrop d).resSeq = s.resSeq := rfl
@[simp] theorem setDrop_resCsum (d : Bool) (s : State) : (s.setDrop d).resCsum = s.resCsum := rfl
@[simp] theorem setDrop_resKind (d : Bool) (s : State) : (s.setDrop d).resKind = s.resKind := rfl
@[simp] theorem setDrop_resPlen (d : Bool) (s : State) : (s.setDrop d).resPlen = s.resPlen := rfl
@[simp] theorem setDrop_lossMode (d : Bool) (s : State) : (s.setDrop d).lossMode = s.lossMode := rfl
@[simp] theorem setDrop_lossThresh (d : Bool) (s : State) : (s.setDrop d).lossThresh = s.lossThresh := rfl
@[simp] theorem setDrop_lossPeriod (d : Bool) (s : State) : (s.setDrop d).lossPeriod = s.lossPeriod := rfl
@[simp] theorem setDrop_lossCount (d : Bool) (s : State) : (s.setDrop d).lossCount = s.lossCount := rfl
@[simp] theorem setDrop_phase (d : Bool) (s : State) : (s.setDrop d).phase = s.phase := rfl
@[simp] theorem setDrop_pending (d : Bool) (s : State) : (s.setDrop d).pending = s.pending := rfl
@[simp] theorem setDrop_inBuf (d : Bool) (s : State) : (s.setDrop d).inBuf = s.inBuf := rfl
@[simp] theorem setDrop_outBuf (d : Bool) (s : State) : (s.setDrop d).outBuf = s.outBuf := rfl
@[simp] theorem setDrop_inReset (d : Bool) (s : State) : (s.setDrop d).inReset = s.inReset := rfl
@[simp] theorem setDrop_draws (d : Bool) (s : State) : (s.setDrop d).draws = s.draws := rfl
@[simp] theorem setDrop_fresh (d : Bool) (s : State) : (s.setDrop d).fresh = s.fresh := rfl
@[simp] theorem setDrop_host (d : Bool) (s : State) : (s.setDrop d).host = s.host := rfl
@[simp] theorem setDrop_turns (d : Bool) (s : State) : (s.setDrop d).turns = s.turns := rfl

@[simp] theorem countConsultation_params (c : Word) (s : State) : (s.countConsultation c).params = s.params := rfl
@[simp] theorem countConsultation_done (c : Word) (s : State) : (s.countConsultation c).done = s.done := rfl
@[simp] theorem countConsultation_wign (c : Word) (s : State) : (s.countConsultation c).wign = s.wign := rfl
@[simp] theorem countConsultation_valid (c : Word) (s : State) : (s.countConsultation c).valid = s.valid := rfl
@[simp] theorem countConsultation_drop (c : Word) (s : State) : (s.countConsultation c).drop = s.drop := rfl
@[simp] theorem countConsultation_errcode (c : Word) (s : State) : (s.countConsultation c).errcode = s.errcode := rfl
@[simp] theorem countConsultation_argSeq (c : Word) (s : State) : (s.countConsultation c).argSeq = s.argSeq := rfl
@[simp] theorem countConsultation_argCsum (c : Word) (s : State) : (s.countConsultation c).argCsum = s.argCsum := rfl
@[simp] theorem countConsultation_inLen (c : Word) (s : State) : (s.countConsultation c).inLen = s.inLen := rfl
@[simp] theorem countConsultation_outLen (c : Word) (s : State) : (s.countConsultation c).outLen = s.outLen := rfl
@[simp] theorem countConsultation_resSeq (c : Word) (s : State) : (s.countConsultation c).resSeq = s.resSeq := rfl
@[simp] theorem countConsultation_resCsum (c : Word) (s : State) : (s.countConsultation c).resCsum = s.resCsum := rfl
@[simp] theorem countConsultation_resKind (c : Word) (s : State) : (s.countConsultation c).resKind = s.resKind := rfl
@[simp] theorem countConsultation_resPlen (c : Word) (s : State) : (s.countConsultation c).resPlen = s.resPlen := rfl
@[simp] theorem countConsultation_lossMode (c : Word) (s : State) : (s.countConsultation c).lossMode = s.lossMode := rfl
@[simp] theorem countConsultation_lossThresh (c : Word) (s : State) : (s.countConsultation c).lossThresh = s.lossThresh := rfl
@[simp] theorem countConsultation_lossPeriod (c : Word) (s : State) : (s.countConsultation c).lossPeriod = s.lossPeriod := rfl
@[simp] theorem countConsultation_lossCount (c : Word) (s : State) : (s.countConsultation c).lossCount = c := rfl
@[simp] theorem countConsultation_phase (c : Word) (s : State) : (s.countConsultation c).phase = s.phase := rfl
@[simp] theorem countConsultation_pending (c : Word) (s : State) : (s.countConsultation c).pending = s.pending := rfl
@[simp] theorem countConsultation_inBuf (c : Word) (s : State) : (s.countConsultation c).inBuf = s.inBuf := rfl
@[simp] theorem countConsultation_outBuf (c : Word) (s : State) : (s.countConsultation c).outBuf = s.outBuf := rfl
@[simp] theorem countConsultation_inReset (c : Word) (s : State) : (s.countConsultation c).inReset = s.inReset := rfl
@[simp] theorem countConsultation_draws (c : Word) (s : State) : (s.countConsultation c).draws = if s.lossMode = 0 then s.draws + 1 else s.draws := rfl
@[simp] theorem countConsultation_fresh (c : Word) (s : State) : (s.countConsultation c).fresh = s.fresh := rfl
@[simp] theorem countConsultation_host (c : Word) (s : State) : (s.countConsultation c).host = s.host := rfl
@[simp] theorem countConsultation_turns (c : Word) (s : State) : (s.countConsultation c).turns = s.turns := rfl

@[simp] theorem evaluated_params (s : State) : (s.evaluated).params = s.params := rfl
@[simp] theorem evaluated_done (s : State) : (s.evaluated).done = s.done := rfl
@[simp] theorem evaluated_wign (s : State) : (s.evaluated).wign = s.wign := rfl
@[simp] theorem evaluated_valid (s : State) : (s.evaluated).valid = s.valid := rfl
@[simp] theorem evaluated_drop (s : State) : (s.evaluated).drop = s.drop := rfl
@[simp] theorem evaluated_errcode (s : State) : (s.evaluated).errcode = s.errcode := rfl
@[simp] theorem evaluated_argSeq (s : State) : (s.evaluated).argSeq = s.argSeq := rfl
@[simp] theorem evaluated_argCsum (s : State) : (s.evaluated).argCsum = s.argCsum := rfl
@[simp] theorem evaluated_inLen (s : State) : (s.evaluated).inLen = s.inLen := rfl
@[simp] theorem evaluated_outLen (s : State) : (s.evaluated).outLen = s.outLen := rfl
@[simp] theorem evaluated_resSeq (s : State) : (s.evaluated).resSeq = s.resSeq := rfl
@[simp] theorem evaluated_resCsum (s : State) : (s.evaluated).resCsum = s.resCsum := rfl
@[simp] theorem evaluated_resKind (s : State) : (s.evaluated).resKind = s.resKind := rfl
@[simp] theorem evaluated_resPlen (s : State) : (s.evaluated).resPlen = s.resPlen := rfl
@[simp] theorem evaluated_lossMode (s : State) : (s.evaluated).lossMode = s.lossMode := rfl
@[simp] theorem evaluated_lossThresh (s : State) : (s.evaluated).lossThresh = s.lossThresh := rfl
@[simp] theorem evaluated_lossPeriod (s : State) : (s.evaluated).lossPeriod = s.lossPeriod := rfl
@[simp] theorem evaluated_lossCount (s : State) : (s.evaluated).lossCount = s.lossCount := rfl
@[simp] theorem evaluated_phase (s : State) : (s.evaluated).phase = s.phase := rfl
@[simp] theorem evaluated_pending (s : State) : (s.evaluated).pending = s.pending := rfl
@[simp] theorem evaluated_inBuf (s : State) : (s.evaluated).inBuf = s.inBuf := rfl
@[simp] theorem evaluated_outBuf (s : State) : (s.evaluated).outBuf = s.outBuf := rfl
@[simp] theorem evaluated_inReset (s : State) : (s.evaluated).inReset = s.inReset := rfl
@[simp] theorem evaluated_draws (s : State) : (s.evaluated).draws = s.draws := rfl
@[simp] theorem evaluated_fresh (s : State) : (s.evaluated).fresh = (s.host.action s.fresh).2 := rfl
@[simp] theorem evaluated_host (s : State) : (s.evaluated).host = s.host := rfl
@[simp] theorem evaluated_turns (s : State) : (s.evaluated).turns = s.turns := rfl

end Sys2Proof.Machine.State
end

