-- ==== Sys2Proof/Laws/Ops.lean ====
section
/-! SUPPORT. What each shared operation can do, said once: the operand reads, the gate, the meanings, the host's accesses,
the turns. -/

namespace Sys2Proof.Machine

open Sys2Proof

namespace State

/-! ### Operands -/

theorem inOctets_eq_some {s : State} {P : List Byte} :
    s.inOctets = some P ↔ P.length = s.inCount ∧ ∀ k < s.inCount, s.inBuf.byte k = P[k]? := by
  simpa [inOctets] using Memory.bytes_eq_some (m := s.inBuf) (i := 0) (n := s.inCount) (B := P)

theorem inOctets_eq_none {s : State} : s.inOctets = none ↔ ∃ k < s.inCount, s.inBuf.byte k = none := by
  simpa [inOctets] using Memory.bytes_eq_none (m := s.inBuf) (i := 0) (n := s.inCount)

/-- What IN_BUF holds as a frame: too short, unreadable, or the decode of its octets. -/
theorem inFrame_cases (s : State) :
    (s.inCount < 64 ∧ s.inFrame = some (.error .malformedShort)) ∨
      (64 ≤ s.inCount ∧ s.inOctets = none ∧ s.inFrame = none) ∨
      (64 ≤ s.inCount ∧ ∃ F, s.inOctets = some F ∧ s.inFrame = some (decodeFrame F)) := by
  unfold inFrame
  by_cases h : s.inCount < 64
  · simp [h, hdrLen]
  · cases ho : s.inOctets <;> simp [h, hdrLen, Nat.not_lt.1 h]

/-- What `inFrame` answers once the octets below IN_LEN are known. -/
theorem inFrame_of_bytes {s : State} {F : List Byte} (h : s.inBuf.bytes 0 s.inLen.toNat = some F) :
    s.inFrame = some (decodeFrame F) := by
  have ho : s.inOctets = some F := h
  obtain ⟨hn, hf⟩ | ⟨-, hc, -⟩ | ⟨-, G, hG, hf⟩ := s.inFrame_cases
  · have hl := (inOctets_eq_some.1 ho).1
    have hs : F.length < 64 := by omega
    simp [hf, decodeFrame, hdrLen, hs]
  · rw [ho] at hc; cases hc
  · rw [ho] at hG; cases hG; exact hf

/-! ### The loss gate -/

theorem gateConfigOk_iff {w : Nat} {mode : BitVec 2} {P K : Word} :
    gateConfigOk w mode P K = true ↔ (mode = 0 ∧ P.toNat ≤ 2 ^ w) ∨ (mode = 1 ∧ 1 ≤ K.toNat) := by
  simp [gateConfigOk]

theorem count_succ (c : Word) : (c + 1).toNat = (c.toNat + 1) % 2 ^ 32 := by simp [BitVec.toNat_add]

/-- A consultation under a legal configuration (R180 to R184). -/
theorem consult_of_configured {s : State} (h : s.GateConfigured) :
    s.consult = some (s.gateDrops, s.countConsultation (s.lossCount + 1)) := by
  have hc := gateConfigOk_iff.2 h
  simp only [consult, gate, hc, if_true, Option.map_some, gateDrops, count_succ]

/-- A consultation under an illegal configuration gives no verdict (R181). -/
theorem consult_of_not_configured {s : State} (h : ¬s.GateConfigured) : s.consult = none := by
  have hc : gateConfigOk s.params.wRand s.lossMode s.lossThresh s.lossPeriod = false := by
    rw [← Bool.not_eq_true, gateConfigOk_iff]; exact h
  simp [consult, gate, hc]

/-- Everything a consultation can do. -/
theorem consult_cases (s : State) :
    (¬s.GateConfigured ∧ s.consult = none) ∨
      (s.GateConfigured ∧
        s.consult = some (s.gateDrops, s.countConsultation (s.lossCount + 1))) := by
  by_cases h : s.GateConfigured
  · exact .inr ⟨h, consult_of_configured h⟩
  · exact .inl ⟨h, consult_of_not_configured h⟩

/-! ### The host's accesses -/

theorem whileIdle_of_busy {s : State} (w : State) (h : s.phase = .busy) :
    s.whileIdle (write := w) = { s with wign := true } := by simp [whileIdle, busy, h]

theorem whileIdle_of_idle {s : State} (w : State) (h : s.phase = .idle) : s.whileIdle (write := w) = w := by
  simp [whileIdle, busy, h]

/-- While the engine is BUSY a host access changes nothing but WIGN and the model's counter of free values (R117, R118). -/
theorem access_of_busy {s : State} (a : Access) (h : s.phase = .busy) :
    (s.access a).2 = { s with wign := (s.access a).2.wign, fresh := (s.access a).2.fresh } := by
  cases a with
  | regRead off => rfl
  | regWrite off v =>
    simp only [access, regWrite]
    cases regAt off with
    | none => rfl
    | some r => cases r <;> simp only [writeReg, whileIdle_of_busy _ h]
  | inRead i => simp only [access, inRead]; split <;> (try split) <;> rfl
  | inWrite i v => simp only [access, inWrite]; split <;> simp only [whileIdle_of_busy _ h]
  | outRead i => simp only [access, outRead]; split <;> (try split) <;> rfl
  | outWrite i v => rfl

end State

/-! ### The meanings -/

/-- What no command and no frame writes: the parameters, the operands, the buffer the host writes, PENDING, WIGN, the
reset input, the host and the order of events (R40, R120). -/
structure Keeps (s t : State) : Prop where
  params : t.params = s.params
  wign : t.wign = s.wign
  argSeq : t.argSeq = s.argSeq
  argCsum : t.argCsum = s.argCsum
  inLen : t.inLen = s.inLen
  lossMode : t.lossMode = s.lossMode
  lossThresh : t.lossThresh = s.lossThresh
  lossPeriod : t.lossPeriod = s.lossPeriod
  pending : t.pending = s.pending
  inBuf : t.inBuf = s.inBuf
  inReset : t.inReset = s.inReset
  fresh : t.fresh = s.fresh
  host : t.host = s.host
  turns : t.turns = s.turns

/-- A command keeps what no command writes, and completes (R115). -/
structure Completes (s t : State) : Prop extends Keeps s t where
  idle : t.phase = .idle
  done : t.done = true

/-- A state made from `s` by result writes and then completed. -/
theorem completes_finish {s u : State} (e : ErrCode) (h : Keeps s u) : Completes s (u.finish e) :=
  { h with idle := rfl, done := rfl }

theorem keeps_refl (s : State) : Keeps s s := ⟨rfl, rfl, rfl, rfl, rfl, rfl, rfl, rfl, rfl, rfl, rfl, rfl, rfl, rfl⟩

theorem keeps_emit {s u : State} (F : List Byte) (h : Keeps s u) : Keeps s (u.emit F) := { h with }
theorem keeps_setResult {s u : State} (f : Frame) (h : Keeps s u) : Keeps s (u.setResult f) := { h with }
theorem keeps_clearResult {s u : State} (h : Keeps s u) : Keeps s u.clearResult := { h with }
theorem keeps_setResCsum {s u : State} (c : Half) (h : Keeps s u) : Keeps s (u.setResCsum c) := { h with }
theorem keeps_setValid {s u : State} (h : Keeps s u) : Keeps s u.setValid := { h with }
theorem keeps_setDrop {s u : State} (d : Bool) (h : Keeps s u) : Keeps s (u.setDrop d) := { h with }
theorem keeps_count {s u : State} (c : Word) (h : Keeps s u) : Keeps s (u.countConsultation c) := { h with }

theorem completes_receive {s u : State} (d : Except FrameError Frame) (h : Keeps s u) : Completes s (u.receive d) := by
  unfold State.receive
  cases d with
  | error e => exact completes_finish _ (keeps_clearResult h)
  | ok f =>
    dsimp only
    split
    · split
      · exact completes_finish _ (keeps_setValid (keeps_setResult f h))
      · exact completes_finish _ (keeps_setResult f h)
    · exact completes_finish _ (keeps_setResult f h)
    · exact completes_finish _ (keeps_setResult f h)

/-- A decoded frame runs to completion, with its fields in the result registers. -/
theorem runFrame_eq (f : Frame) (s : State) :
    runFrame f s = .next (s.setResult (if f.kind = .data then f else { f with payload := [] })).succeed := by
  obtain ⟨k, q, c, P⟩ := f
  cases k <;> rfl

/-- A frame decoded from octets has a payload only if it is a DATA frame. -/
theorem payload_of_decodeFrame {F : List Byte} {f : Frame} (h : decodeFrame F = .ok f) :
    f.payload = if f.kind = .data then F.drop 64 else [] := by
  obtain ⟨-, e⟩ | ⟨-, -, e⟩ | ⟨-, k, -, ⟨-, e⟩ | ⟨-, e⟩⟩ := decodeFrame_cases F <;> rw [e] at h <;> cases h
  rfl

theorem runFrame_of_decodeFrame {F : List Byte} {f : Frame} (h : decodeFrame F = .ok f) (s : State) :
    runFrame f s = .next (s.setResult f).succeed := by
  have hp := payload_of_decodeFrame h
  obtain ⟨k, q, c, P⟩ := f
  cases k <;> simp_all [runFrame_eq]

/-- Every meaning that gives a next state keeps what no command writes, and completes. -/
theorem completes_of_exec {i : Instr} {s t : State} (h : exec i s = .next t) : Completes s t := by
  have h0 := keeps_refl s
  cases i with
  | encData =>
    simp only [exec, execEncData] at h
    split at h
    · cases h; exact completes_finish _ h0
    · split at h
      · cases h
      · simp only [Host.Outcome.next.injEq] at h
        exact h ▸ completes_finish _ (keeps_emit _ h0)
  | encAck =>
    simp only [exec, execEncAck, Host.Outcome.next.injEq] at h
    exact h ▸ completes_finish _ (keeps_emit _ h0)
  | encEof =>
    simp only [exec, execEncEof, Host.Outcome.next.injEq] at h
    exact h ▸ completes_finish _ (keeps_emit _ h0)
  | decode =>
    simp only [exec, execDecode] at h
    split at h
    · cases h; exact completes_finish _ h0
    · split at h
      · cases h
      · cases h; exact completes_finish _ (keeps_clearResult h0)
      · rw [runFrame_eq] at h; cases h; exact completes_finish _ (keeps_setResult _ h0)
  | csumCompute =>
    simp only [exec, execCsumCompute] at h
    split at h
    · cases h; exact completes_finish _ h0
    · split at h <;> cases h; exact completes_finish _ (keeps_setResCsum _ h0)
  | csumValidate =>
    simp only [exec, execCsumValidate] at h
    split at h
    · cases h; exact completes_finish _ h0
    · split at h
      · cases h
      · cases h
        split
        · exact completes_finish _ (keeps_setValid (keeps_setResCsum _ h0))
        · exact completes_finish _ (keeps_setResCsum _ h0)
  | lossGate =>
    simp only [exec, execLossGate] at h
    obtain ⟨-, hc⟩ | ⟨-, hc⟩ := s.consult_cases <;> rw [hc] at h <;> cases h
    · exact completes_finish _ h0
    · exact completes_finish _ (keeps_setDrop _ (keeps_count _ h0))
  | rxFrame =>
    have hdrop : Completes s (s.countConsultation (s.lossCount + 1)).dropFrame :=
      completes_finish _ (keeps_setDrop _ (keeps_clearResult (keeps_count _ h0)))
    simp only [exec, execRxFrame] at h
    split at h
    · cases h; exact completes_finish _ h0
    · obtain ⟨-, hc⟩ | ⟨-, hc⟩ := s.consult_cases <;> rw [hc] at h
      · cases h; exact completes_finish _ h0
      · dsimp only at h
        split at h
        · split at h <;> cases h; exact hdrop
        · cases h
          split
          · exact hdrop
          · exact completes_receive _ (keeps_count _ h0)
  | frameData => cases h; exact completes_finish _ (keeps_setResult _ h0)
  | frameAck => cases h; exact completes_finish _ (keeps_setResult _ h0)
  | frameEof => cases h; exact completes_finish _ (keeps_setResult _ h0)

/-- A meaning stops only on an IN_BUF octet that holds no value (R44, U3). -/
theorem exec_fault {i : Instr} {s : State} {f : Fault} (h : exec i s = .fault f) :
    f = .unwrittenOctet ∧ s.inOctets = none := by
  cases i with
  | encData =>
    simp only [exec, execEncData] at h
    split at h
    · cases h
    · split at h <;> cases h; exact ⟨rfl, ‹_›⟩
  | encAck => cases h
  | encEof => cases h
  | decode =>
    simp only [exec, execDecode] at h
    split at h
    · cases h
    · obtain ⟨-, hf⟩ | ⟨-, ho, hf⟩ | ⟨-, F, -, hf⟩ := s.inFrame_cases <;> rw [hf] at h
      · cases h
      · cases h; exact ⟨rfl, ho⟩
      · cases hd : decodeFrame F with
        | error e => rw [hd] at h; cases h
        | ok f => rw [hd] at h; dsimp only at h; unfold runFrame at h; cases hk : f.kind <;> rw [hk] at h <;> cases h
  | csumCompute =>
    simp only [exec, execCsumCompute] at h
    split at h
    · cases h
    · split at h <;> cases h; exact ⟨rfl, ‹_›⟩
  | csumValidate =>
    simp only [exec, execCsumValidate] at h
    split at h
    · cases h
    · split at h <;> cases h; exact ⟨rfl, ‹_›⟩
  | lossGate =>
    simp only [exec, execLossGate] at h
    obtain ⟨-, hc⟩ | ⟨-, hc⟩ := s.consult_cases <;> rw [hc] at h <;> cases h
  | rxFrame =>
    simp only [exec, execRxFrame] at h
    split at h
    · cases h
    · obtain ⟨-, hc⟩ | ⟨-, hc⟩ := s.consult_cases <;> rw [hc] at h
      · cases h
      · dsimp only at h
        obtain ⟨-, hf⟩ | ⟨-, ho, hf⟩ | ⟨-, F, -, hf⟩ := s.inFrame_cases <;> rw [hf] at h
        · cases h
        · dsimp only at h; split at h <;> cases h; exact ⟨rfl, ho⟩
        · cases h
  | frameData => cases h
  | frameAck => cases h
  | frameEof => cases h

/-! ### The turns -/

/-- One step of a run. -/
theorem run_next {M : Host.Core} {k : Nat} {s t : M.State} (h : M.step s = .next t) : M.run (k + 1) s = M.run k t := by
  simp only [Host.Core.run, h]

/-- Everything one step can be. -/
theorem step_cases {s t : State} (h : step s = .next t) :
    (s.nextTurn = none ∧ t = s) ∨
      (s.nextTurn = some .host ∧ hostTurn s.popTurn = .next t) ∨
      (s.nextTurn = some .engine ∧ s.phase = .idle ∧ t = s.popTurn) ∨
      (s.nextTurn = some .engine ∧ s.phase = .busy ∧ engineStep s.popTurn = .next t) ∨
      (s.nextTurn = some .assertReset ∧ t = s.popTurn.assertReset) ∨
      (s.nextTurn = some .releaseReset ∧ t = s.popTurn.releaseReset) := by
  unfold step runTurn at h
  cases hn : s.nextTurn with
  | none => rw [hn] at h; cases h; exact .inl ⟨rfl, rfl⟩
  | some a =>
    rw [hn] at h
    cases a with
    | host => exact .inr (.inl ⟨rfl, h⟩)
    | engine =>
      simp only [engineTurn, State.popTurn_phase] at h
      cases hp : s.phase with
      | idle => rw [hp] at h; cases h; exact .inr (.inr (.inl ⟨rfl, rfl, rfl⟩))
      | busy => rw [hp] at h; exact .inr (.inr (.inr (.inl ⟨rfl, rfl, h⟩)))
    | assertReset => cases h; exact .inr (.inr (.inr (.inr (.inl ⟨rfl, rfl⟩))))
    | releaseReset => cases h; exact .inr (.inr (.inr (.inr (.inr ⟨rfl, rfl⟩))))

/-- Evaluating an expression never takes back a free value. -/
theorem le_eval (names : Names) (e : Expr) (k : Nat) : k ≤ (e.eval names k).2 := by
  induction e generalizing k with
  | const n => exact Nat.le_refl k
  | name x => simp only [Expr.eval, takeUnstated]; split <;> simp
  | add a b iha ihb => exact (iha k).trans (ihb _)
  | sub a b iha ihb =>
    refine ((iha k).trans (ihb _)).trans ?_
    simp only [Expr.eval, evalTwo, takeUnstated]; split <;> simp
  | mod a b iha ihb =>
    refine ((iha k).trans (ihb _)).trans ?_
    simp only [Expr.eval, evalTwo, takeUnstated]; split <;> simp
  | slice a hi lo iha =>
    refine (iha k).trans ?_
    simp only [Expr.eval, takeUnstated]; split <;> simp
  | eq a b iha ihb => exact (iha k).trans (ihb _)
  | lt a b iha ihb => exact (iha k).trans (ihb _)
  | le a b iha ihb => exact (iha k).trans (ihb _)

/-- A label is found exactly when a line of the script defines it. -/
theorem labelLine_isSome (l : Nat) (script : List Stmt) (k : Nat) :
    (labelLine l script k).isSome ↔ l ∈ scriptLabels script := by
  induction script generalizing k with
  | nil => simp [labelLine, scriptLabels]
  | cons line rest ih =>
    cases line <;> simp only [labelLine, scriptLabels, ih, List.mem_cons]
    next m =>
      by_cases h : m = l
      · simp [h]
      · simp [h, ih, Ne.symm h]

/-- Everything the host's turn can do. -/
theorem hostTurn_cases {s t : State} (h : hostTurn s = .next t) :
    (∃ a x, (s.host.action s.fresh).1 = .access a x ∧ s.inReset = false ∧ t = s.evaluated.hostAccess a x) ∨
      (∃ g, t = { s.evaluated with host := g }) ∨ t = s := by
  unfold hostTurn at h
  split at h
  · split at h
    · cases h
    · next hr => cases h; exact .inl ⟨_, _, ‹_›, by simpa using hr, rfl⟩
  · cases h; exact .inr (.inl ⟨_, rfl⟩)
  · split at h <;> cases h; exact .inr (.inl ⟨_, rfl⟩)
  · cases h; exact .inr (.inl ⟨_, rfl⟩)
  · cases h; exact .inr (.inr rfl)

/-- Everything the engine's step can do. -/
theorem engineStep_cases {s t : State} (h : engineStep s = .next t) :
    (∃ i, s.pendingInstr = some i ∧ exec i s = .next t) ∨
      (s.pendingInstr = none ∧ t = s.raise .illegalCommand) := by
  unfold engineStep at h
  split at h
  · exact .inl ⟨_, ‹_›, h⟩
  · cases h; exact .inr ⟨‹_›, rfl⟩

end Sys2Proof.Machine
end

