-- ==== Sys2Proof/Laws/PerInstr.lean ====
section
/-! SUPPORT. Statements about every instruction, one lemma per constructor. -/

namespace Sys2Proof.Laws.EncodingFits

/-- The encoding of an instruction that fits the block fits it: a command word is one of 1 to 8 (R91), and a frame's octets
are at least a header and at most a buffer (R7, R80). -/
def Statement (i : Instr) : Prop :=
  ∀ p : Params, i.fits p = true →
    match encode i with
    | .command w => 1 ≤ w.toNat ∧ w.toNat ≤ 8
    | .frame F => hdrLen ≤ F.length ∧ F.length ≤ p.inBufSize

theorem encData : Statement .encData := fun _ _ => ⟨by decide, by decide⟩
theorem encAck : Statement .encAck := fun _ _ => ⟨by decide, by decide⟩
theorem encEof : Statement .encEof := fun _ _ => ⟨by decide, by decide⟩
theorem decode : Statement .decode := fun _ _ => ⟨by decide, by decide⟩
theorem csumCompute : Statement .csumCompute := fun _ _ => ⟨by decide, by decide⟩
theorem csumValidate : Statement .csumValidate := fun _ _ => ⟨by decide, by decide⟩
theorem lossGate : Statement .lossGate := fun _ _ => ⟨by decide, by decide⟩
theorem rxFrame : Statement .rxFrame := fun _ _ => ⟨by decide, by decide⟩

theorem frameData (seq : Word) (csum : Half) (payload : List Byte) : Statement (.frameData seq csum payload) := by
  intro p h
  have h' : payload.length ≤ p.maxPayload := by simpa [Instr.fits] using h
  simp only [encode, encodeFrame_length, Params.inBufSize, if_true]
  omega

theorem frameAck (seq : Word) (csum : Half) : Statement (.frameAck seq csum) := by
  intro p _
  simp [encode, encodeFrame_length, Params.inBufSize]

theorem frameEof (seq : Word) (csum : Half) : Statement (.frameEof seq csum) := by
  intro p _
  simp [encode, encodeFrame_length, Params.inBufSize]

end Sys2Proof.Laws.EncodingFits
end

