-- ==== Sys2Proof/Tests/Slice0.lean ====
section
/-! SUPPORT. The model's own tests. Expected values come from spec/95_test_vectors.md (their ids stand in the comments), from
the encodings of spec/30_encoding.md, and from the rules' own examples. The `test_witness_` theorems show that the
hypotheses of an obligation can be met, clause by clause and at the boundary values. -/

namespace Sys2Proof.Tests

open Sys2Proof Sys2Proof.Machine

/-! ### Helpers -/

/-- The octets `'0'` and `'1'` of a row of digits (R15). -/
def zeros (n : Nat) : List Byte := List.replicate n 0x30
def ones (n : Nat) : List Byte := List.replicate n 0x31

/-- The DATA, ACK and EOF tags, octet by octet (R83). -/
def tagData : List Byte :=
  [0x30, 0x31, 0x30, 0x31, 0x30, 0x31, 0x30, 0x31, 0x30, 0x31, 0x30, 0x31, 0x30, 0x31, 0x30, 0x31]
def tagAck : List Byte :=
  [0x31, 0x30, 0x31, 0x30, 0x31, 0x30, 0x31, 0x30, 0x31, 0x30, 0x31, 0x30, 0x31, 0x30, 0x31, 0x30]
def tagEof : List Byte := zeros 16

/-- 0xBEBD, octet by octet (R130's example). -/
def digitsBEBD : List Byte :=
  [0x31, 0x30, 0x31, 0x31, 0x31, 0x31, 0x31, 0x30, 0x31, 0x30, 0x31, 0x31, 0x31, 0x31, 0x30, 0x31]

/-- The frames of vectors EN1, EN2, EN3. -/
def en1 : List Byte := zeros 29 ++ [0x31, 0x30, 0x31] ++ digitsBEBD ++ tagData ++ [0x41, 0x42]
def en2 : List Byte := zeros 48 ++ tagAck
def en3 : List Byte := zeros 29 ++ [0x31, 0x31, 0x31] ++ zeros 32

def hello : List Byte := [0x48, 0x65, 0x6C, 0x6C, 0x6F]
def hellp : List Byte := [0x48, 0x65, 0x6C, 0x6C, 0x70]

/-- Octets in IN_BUF and their number in IN_LEN. -/
def load (B : List Byte) (s : State) : State :=
  { s with inBuf := Memory.setBytes [] 0 B, inLen := BitVec.ofNat 32 B.length }

/-- The gate in PERIODIC mode: K = 1 drops every frame, K = 2 passes the first. -/
def periodic (K : Word) (s : State) : State := { s with lossMode := 1, lossPeriod := K }

/-- The state after an instruction that completes. -/
def after (i : Instr) (s : State) : State :=
  match exec i s with
  | .next t => t
  | _ => s

/-- The instruction gives a next state. -/
def completes (i : Instr) (s : State) : Bool :=
  match exec i s with
  | .next _ => true
  | _ => false

def busyWith (w : Word) (s : State) : State := s.accept w

/-- The block after reset with this script of the host. -/
def hosting (script : List Stmt) : State := { State.reset with host := { script := script, pc := 0, names := [] } }

/-! ### Well-formedness: terms the checks refuse -/

theorem test_illformed_ack : Instr.wellFormed (.frameAck 9 0xFFFF) = false := by decide
theorem test_illformed_eof : Instr.wellFormed (.frameEof 9 1) = false := by decide
theorem test_wellformed_ack : Instr.wellFormed (.frameAck 0xFFFFFFFF 0) = true := by decide
theorem test_data_too_long :
    Instr.fits { maxPayload := 1, wRand := 1 } (.frameData 0 0 [0x41, 0x42]) = false := by decide
theorem test_data_fits : Instr.fits { maxPayload := 2, wRand := 1 } (.frameData 0 0 [0x41, 0x42]) = true := by decide
theorem test_illformed_slice : Expr.wellFormed (.slice (.const 5) 0 1) = false := by decide
theorem test_illformed_script_no_label : scriptWellFormed [.ifGoto (.const 1) 7, .stop] = false := by decide
theorem test_illformed_script_two_labels : scriptWellFormed [.label 7, .label 7, .stop] = false := by decide
theorem test_illformed_script_line : scriptWellFormed [.set 0 (.slice (.const 5) 0 1)] = false := by decide
theorem test_wellformed_script : scriptWellFormed (Script.run .csumCompute 0 1 ++ [.stop]) = true := by decide

/-! ### Decoding, from words and octets written out -/

theorem test_decode_encData : decode (.command 0b00000000000000000000000000000001#32) = .ok .encData := by rfl
theorem test_decode_encAck : decode (.command 0b00000000000000000000000000000010#32) = .ok .encAck := by rfl
theorem test_decode_encEof : decode (.command 0b00000000000000000000000000000011#32) = .ok .encEof := by rfl
theorem test_decode_decode : decode (.command 0b00000000000000000000000000000100#32) = .ok .decode := by rfl
theorem test_decode_csumCompute : decode (.command 0b00000000000000000000000000000101#32) = .ok .csumCompute := by rfl
theorem test_decode_csumValidate : decode (.command 0b00000000000000000000000000000110#32) = .ok .csumValidate := by rfl
theorem test_decode_lossGate : decode (.command 0b00000000000000000000000000000111#32) = .ok .lossGate := by rfl
theorem test_decode_rxFrame : decode (.command 0b00000000000000000000000000001000#32) = .ok .rxFrame := by rfl
/- LC2, LC4, LC3, LC1 -/
theorem test_decode_zero_word : decode (.command 0x00000000) = .error .illegalCommand := by rfl
theorem test_decode_nine : decode (.command 0x00000009) = .error .illegalCommand := by rfl
theorem test_decode_reserved_bit : decode (.command 0x00000011) = .error .illegalCommand := by rfl
theorem test_decode_bit_four : decode (.command 0x00000010) = .error .illegalCommand := by rfl

/- DC1 to DC3, DC6, DC5 -/
theorem test_decode_frameData : decode (.frame en1) = .ok (.frameData 5 0xBEBD [0x41, 0x42]) := by rfl
theorem test_decode_frameAck : decode (.frame en2) = .ok (.frameAck 0 0) := by rfl
theorem test_decode_frameEof : decode (.frame en3) = .ok (.frameEof 7 0) := by rfl
theorem test_decode_ack_checksum : decode (.frame (zeros 32 ++ ones 16 ++ tagAck)) = .ok (.frameAck 0 0xFFFF) := by rfl
theorem test_decode_eof_trailing : decode (.frame (en3 ++ [0x30, 0x31, 0x32])) = .ok (.frameEof 7 0) := by rfl
/- DC7, DC8, DC9, DC11, DC12, DC13 -/
theorem test_decode_bad_digit : decode (.frame (en1.set 3 0x78)) = .error (.badFrame .malformedDigit) := by rfl
theorem test_decode_bad_tag : decode (.frame (en1.set 63 0x00)) = .error (.badFrame .unknownFrameType) := by rfl
theorem test_decode_tag_first :
    decode (.frame ((en1.set 3 0x78).set 63 0x00)) = .error (.badFrame .unknownFrameType) := by rfl
theorem test_decode_short : decode (.frame (en1.take 63)) = .error (.badFrame .malformedShort) := by rfl
theorem test_decode_all_ones : decode (.frame (ones 64)) = .error (.badFrame .unknownFrameType) := by rfl
theorem test_decode_tag_first_octet : decode (.frame (en1.set 48 0x31)) = .error (.badFrame .unknownFrameType) := by rfl

/- EN1, EN4, EN7 -/
theorem test_encode_frameData : encode (.frameData 5 0xBEBD [0x41, 0x42]) = .frame en1 := by decide
theorem test_encode_all_ones : encode (.frameData 0xFFFFFFFF 0 []) = .frame (ones 32 ++ zeros 16 ++ tagData) := by decide
theorem test_encode_frameAck :
    encode (.frameAck 3 0) = .frame (zeros 30 ++ [0x31, 0x31] ++ zeros 16 ++ tagAck) := by decide

/-! ### The rows of spec/opcode_table.json, and the step that runs them -/

theorem test_table_commands :
    [1, 2, 3, 4, 5, 6, 7, 8].map (decodeTableWord 32) =
      [some .encData, some .encAck, some .encEof, some .decode, some .csumCompute, some .csumValidate, some .lossGate,
        some .rxFrame] := by decide
theorem test_table_tags :
    [0x5555, 0xAAAA, 0x0000].map (decodeTableWord 16) =
      [some (.frameData 0 0 []), some (.frameAck 0 0), some (.frameEof 0 0)] := by decide
theorem test_table_no_row : [decodeTableWord 32 0, decodeTableWord 32 9, decodeTableWord 16 0xFFFF, decodeTableWord 8 1] =
    [none, none, none, none] := by decide

theorem test_fetch_encData : step (State.reset.withFetchWord 32 1) = exec .encData (State.reset.withFetchWord 32 1) := by rfl
theorem test_fetch_rxFrame : step (State.reset.withFetchWord 32 8) = exec .rxFrame (State.reset.withFetchWord 32 8) := by rfl
theorem test_fetch_frameData :
    step (State.reset.withFetchWord 16 0x5555) = exec (.frameData 0 0 []) (State.reset.withFetchWord 16 0x5555) := by rfl
theorem test_fetch_frameAck :
    step (State.reset.withFetchWord 16 0xAAAA) = exec (.frameAck 0 0) (State.reset.withFetchWord 16 0xAAAA) := by rfl
theorem test_fetch_frameEof :
    step (State.reset.withFetchWord 16 0x0000) = exec (.frameEof 0 0) (State.reset.withFetchWord 16 0x0000) := by rfl

/-! ### The checksum commands -/

/- CS7, CS14, CS11 -/
theorem test_csum_hello : ((after .csumCompute (load hello State.reset)).regRead 0x1C) = 0x0000DC2D := by decide
theorem test_csum_folds_each_step : computeChecksum [0xFF, 0xFF, 0xFF, 0xFF, 0x00, 0x01] = 0xFFFE := by decide
theorem test_csum_odd : computeChecksum [0xFF, 0xFF, 0xFF] = 0x00FF := by decide
/- CS26 -/
theorem test_csum_too_long :
    let s := { State.reset with inLen := 577 }
    (after .csumCompute s).regRead 0x04 = 0x00000602 ∧ (after .csumCompute s).resCsum = s.resCsum := by decide
/- CV1, CV2 -/
theorem test_validate_hello :
    (after .csumValidate { load hello State.reset with argCsum := 0xDC2D }).regRead 0x04 = 0x0000000A := by decide
theorem test_validate_mutation :
    let t := after .csumValidate { load hellp State.reset with argCsum := 0xDC2D }
    t.regRead 0x04 = 0x00000402 ∧ t.regRead 0x1C = 0x0000DB2D := by decide

/-! ### The codec commands -/

/- EN1, EN6 -/
theorem test_encData :
    let t := after .encData { load [0x41, 0x42] State.reset with argSeq := 5, argCsum := 0xBEBD }
    t.outBuf.bytes 0 66 = some en1 ∧ t.regRead 0x14 = 66 ∧ t.regRead 0x04 = 2 := by decide +kernel
theorem test_encData_too_long :
    let t := after .encData { State.reset with inLen := 513 }
    t.regRead 0x04 = 0x00000602 ∧ t.outLen = 0 ∧ t.outBuf = [] := by decide
/- EN2, EN3 -/
theorem test_encAck :
    let t := after .encAck { State.reset with argCsum := 0xFFFF }
    t.outBuf.bytes 0 64 = some en2 ∧ t.regRead 0x14 = 64 := by decide +kernel
theorem test_encEof :
    let t := after .encEof { State.reset with argSeq := 7, argCsum := 0xFFFF }
    t.outBuf.bytes 0 64 = some en3 ∧ t.regRead 0x14 = 64 := by decide +kernel
/- DC1, DC9 -/
theorem test_exec_decode :
    let t := after .decode (load en1 State.reset)
    [t.regRead 0x20, t.regRead 0x18, t.regRead 0x1C, t.regRead 0x24, t.regRead 0x04] = [0, 5, 0xBEBD, 2, 2] := by
  decide +kernel
theorem test_exec_decode_error :
    let t := after .decode { load ((en1.set 3 0x78).set 63 0x00) State.reset with resSeq := 9, resPlen := 9, resKind := some .eof }
    [t.regRead 0x20, t.regRead 0x18, t.regRead 0x1C, t.regRead 0x24, t.regRead 0x04] = [3, 0, 0, 0, 0x00000302] := by
  decide +kernel
/- DC2, DC3 as the frames' own meanings -/
theorem test_exec_frameAck :
    let t := after (.frameAck 0 0) State.reset
    [t.regRead 0x20, t.regRead 0x18, t.regRead 0x1C, t.regRead 0x24, t.regRead 0x04] = [1, 0, 0, 0, 2] := by decide
theorem test_exec_frameEof :
    let t := after (.frameEof 7 0) State.reset
    [t.regRead 0x20, t.regRead 0x18, t.regRead 0x1C, t.regRead 0x24, t.regRead 0x04] = [2, 7, 0, 0, 2] := by decide
theorem test_exec_frameData :
    let t := after (.frameData 5 0xBEBD [0x41, 0x42]) State.reset
    [t.regRead 0x20, t.regRead 0x18, t.regRead 0x1C, t.regRead 0x24, t.regRead 0x04] = [0, 5, 0xBEBD, 2, 2] := by decide

/-! ### The loss gate and the receive path -/

/- LG8, LG4 -/
theorem test_gate_wrap :
    let t := after .lossGate (periodic 3 { State.reset with lossCount := 0xFFFFFFFF })
    t.regRead 0x04 = 0x00000012 ∧ t.regRead 0x34 = 0 := by decide
theorem test_gate_threshold :
    let t := after .lossGate { State.reset with lossThresh := 0x80000001, lossCount := 3 }
    t.regRead 0x04 = 0x00000502 ∧ t.draws = 0 := by decide
/- P2, first iteration; RX4 -/
theorem test_rx_valid :
    let t := after .rxFrame (periodic 3 (load (zeros 32 ++ digitsBEBD ++ tagData ++ [0x41, 0x42]) State.reset))
    [t.regRead 0x04, t.regRead 0x34, t.regRead 0x20, t.regRead 0x18, t.regRead 0x1C, t.regRead 0x24] =
      [0x0000000A, 1, 0, 0, 0xBEBD, 2] := by decide +kernel
theorem test_rx_dropped_malformed :
    let t := after .rxFrame (periodic 1 (load [0x61, 0x62, 0x63] State.reset))
    t.regRead 0x04 = 0x00000012 ∧ t.regRead 0x20 = 3 ∧ t.regRead 0x34 = 1 := by decide

/-! ### The lifecycle and the bus -/

/- LC1 and LC9 -/
theorem test_illegal_command :
    engineStep (State.reset.regWrite 0x00 0x00000010) =
        .next { State.reset with done := true, errcode := .illegalCommand } ∧
      { State.reset with done := true, errcode := .illegalCommand }.regRead 0x04 = 0x00000702 := by
  exact ⟨rfl, by decide⟩
theorem test_status_while_busy :
    (State.reset.regWrite 0x00 5).regRead 0x04 = 0x00000001 ∧
      ({ State.reset with wign := true }.regWrite 0x00 5).regRead 0x04 = 0x00000005 := by decide
/- LC5, LG12, LC8 -/
theorem test_arg_csum_keeps_its_bits : (State.reset.regWrite 0x0C 0x1234ABCD).regRead 0x0C = 0x0000ABCD := by decide
theorem test_loss_mode_keeps_its_bits : (State.reset.regWrite 0x28 7).regRead 0x28 = 3 := by decide
theorem test_status_write : ({ State.reset with wign := true, done := true }.regWrite 0x04 4).regRead 0x04 = 2 := by decide
/- LC10, LC11, LC12 -/
theorem test_reset_registers :
    [State.reset.regRead 0x04, State.reset.regRead 0x20, State.reset.regRead 0x38, State.reset.regRead 0x3C] =
      [0, 3, 512, 31] := by decide
theorem test_unmapped : State.reset.regRead 0x40 = 0 ∧ State.reset.regRead 0x02 = 0 := by decide
theorem test_outside_the_buffers : (State.reset.inRead 576).1 = 0 ∧ (State.reset.outRead 576).1 = 0 := by decide
/- P4, schedule B: the write of IN_LEN while BUSY -/
theorem test_write_while_busy :
    let t := (busyWith 5 (load hello State.reset)).regWrite 0x10 2
    t.regRead 0x10 = 5 ∧ t.regRead 0x04 = 0x00000005 := by decide

/-! ### The host's lines (R94, R95) -/

/-- The state after a step that completes. -/
def next? (s : State) : Option State :=
  match step s with
  | .next t => some t
  | _ => none

/- A value the spec does not state ends no run: the line binds its name, and the script goes on (log entry 19). -/
theorem test_unstated_values_go_on :
    [Expr.sub (.const 1) (.const 2), .mod (.const 5) (.const 0), .slice (.const 5) 0 1, .name 9].map (fun e =>
      (next? (hosting [.set 0 e])).map fun t => (t.host.pc, (cellAt t.host.names 0).isSome, t.fresh)) =
    List.replicate 4 (some (1, true, 1)) := by decide
/- A value that does not fit its access: the octet is written, and it alone. -/
theorem test_wide_value_goes_on :
    (next? (hosting [.inWrite (.const 3) (.const 256)])).map (fun t =>
      (t.host.pc, (t.inBuf.byte 3).isSome, t.inBuf.length, t.fresh)) = some (1, true, 1, 1) := by decide
theorem test_fitting_value_is_written :
    (next? (hosting [.inWrite (.const 3) (.const 255)])).map (fun t => (t.inBuf.byte 3, t.fresh)) =
      some (some 0xFF, 0) := by decide
/- R82, R95: LOADFRAME with a tag that is none of the three, sixteen '1' (DC11). -/
theorem test_loadFrame_any_tag :
    Script.loadFrame 0xFFFFFFFF 0xFFFF 0xFFFF [] = Script.load (ones 64) ∧
      decode (.frame (hdr 0 0 0xFFFF)) = .error (.badFrame .unknownFrameType) := by exact ⟨by decide, rfl⟩
/- R95: LOAD IN, "AB" -/
theorem test_loadText : Script.loadText "AB" = Script.load [0x41, 0x42] := by decide

/-! ### Witnesses: the hypotheses of the statements can be met -/

/-- The next state of a step, for the witnesses. -/
def stepped (s : State) : State :=
  match step s with
  | .next t => t
  | _ => s

def fault? (i : Instr) (s : State) : Option Fault :=
  match exec i s with
  | .fault f => some f
  | _ => none

/-- Legal parameters at both ends of their ranges. -/
def smallParams : Params := { maxPayload := 1, wRand := 1 }
def largeParams : Params := { maxPayload := 0xFFFFFFBF, wRand := 31 }

theorem test_witness_legal_params : smallParams.legal ∧ largeParams.legal ∧ Params.reference.legal := by decide

/- DecoderChecksLengthThenTagThenDigits: 63 and 64 octets; no tag; each tag with a bad digit at octet 0 and at octet 47, and
with digits only. -/
theorem test_witness_decoder_short : (en1.take 63).length < 64 ∧ ([] : List Byte).length < 64 := by decide
theorem test_witness_decoder_no_tag :
    64 ≤ (ones 64).length ∧ ∀ k ∈ [FrameKind.data, .ack, .eof], slice (ones 64) 48 64 ≠ k.tag := by decide
theorem test_witness_decoder_bad_digit :
    (64 ≤ (en1.set 47 0x32).length ∧ slice (en1.set 47 0x32) 48 64 = FrameKind.data.tag ∧
        isDigit ((en1.set 47 0x32)[47]?.getD 0) = false) ∧
      (64 ≤ (en2.set 0 0x2F).length ∧ slice (en2.set 0 0x2F) 48 64 = FrameKind.ack.tag ∧
        isDigit ((en2.set 0 0x2F)[0]?.getD 0) = false) := by decide
theorem test_witness_decoder_digits :
    (slice en1 48 64 = FrameKind.data.tag ∧ ∀ j < 48, isDigit (en1[j]?.getD 0) = true) ∧
      (slice en2 48 64 = FrameKind.ack.tag ∧ ∀ j < 48, isDigit (en2[j]?.getD 0) = true) ∧
      (slice en3 48 64 = FrameKind.eof.tag ∧ ∀ j < 48, isDigit (en3[j]?.getD 0) = true) := by decide
/- DecodedFrameBeginsWithItsHeader -/
theorem test_witness_decoded_header :
    decodeFrame en1 = .ok { kind := .data, seq := 5, csum := 0xBEBD, payload := [0x41, 0x42] } ∧
      decodeFrame en3 = .ok { kind := .eof, seq := 7, csum := 0, payload := [] } := by exact ⟨rfl, rfl⟩
/- TagsAreFarApart: one and seven changed octets -/
theorem test_witness_tags :
    ((tagData.set 0 0x31).length = 16 ∧ tagData.set 0 0x31 ≠ FrameKind.data.tag ∧
        octetsChanged (tagData.set 0 0x31) FrameKind.data.tag < 8) ∧
      ((ones 7 ++ zeros 9).length = 16 ∧ ones 7 ++ zeros 9 ≠ FrameKind.eof.tag ∧
        octetsChanged (ones 7 ++ zeros 9) FrameKind.eof.tag < 8) := by decide
/- PayloadWordsPairOctets: the last word of an odd payload; FoldedSumFoldsEveryAddition: an even payload -/
theorem test_witness_words : 1 < ([0x41, 0x42, 0x43] : List Byte).length.succ / 2 ∧ hello.length % 2 ≠ 0 ∧
    ([0xFF, 0xFF] : List Byte).length % 2 = 0 := by decide
/- ChecksumIgnoresWordOrder (CS20, CS21), SingleOctetChangesAreDetected (CV2), ChecksumBlindSpots (CS22, CS3) -/
theorem test_witness_word_order :
    (payloadWords [0x41, 0x42, 0x43, 0x44]).Perm (payloadWords [0x43, 0x44, 0x41, 0x42]) := by decide
theorem test_witness_single_octet : 4 < hello.length ∧ hello[4]? ≠ some 0x70 := by decide
theorem test_witness_blind_spots :
    (([] : List Byte).length % 2 = 0 ∧ ∃ w ∈ payloadWords [] ++ payloadWords [0x12, 0x34], w ≠ 0) ∧
      ([0x41] : List Byte).length % 2 = 1 := by decide

/- ResetInputAbandonsAndRestores: asserted while BUSY, and released -/
theorem test_witness_reset_input :
    (let s := { busyWith 5 State.reset with turns := [.assertReset] };
      s.params.legal ∧ s.turns = [.assertReset] ∧ s.phase = .busy) ∧
      (let s := { State.reset.assertReset with turns := [.releaseReset, .host] };
      s.params.legal ∧ s.turns = [.releaseReset, .host] ∧ s.inReset = true) := by decide
/- ReachableStatesMeetTheInvariant: the start of a run, with a script and an order of events -/
theorem test_witness_reachable :
    smallParams.legal ∧
      Reachable smallParams
        { State.resetWith smallParams with
          host := { script := [Script.wr .cmd (.const 1)], pc := 0, names := [] }, turns := [.host, .engine] } := by
  exact ⟨by decide, .start _ _⟩
/- StepKeepsTheInvariant, ParametersNeverChange: the engine's step of DECODE, and a host turn -/
theorem test_witness_invariant :
    State.reset.Inv ∧ step State.reset = .next (stepped State.reset) ∧
      (State.reset.withFetchWord 32 4).Inv ∧
      step (State.reset.withFetchWord 32 4) = .next (stepped (State.reset.withFetchWord 32 4)) := by
  exact ⟨by decide, rfl, by decide, rfl⟩

/- CommandWriteIsAccepted, IllegalWordsEndWithIllegalCommand: the words 0, 9 and one with a reserved bit -/
theorem test_witness_illegal_words :
    State.reset.phase = .idle ∧ (0x00000000 : Word).toNat = 0 ∧ 8 < (0x00000009 : Word).toNat ∧
      8 < (0x80000001 : Word).toNat := by decide
/- LegalWordsRunTheirCommand: the first and the last word of the map -/
theorem test_witness_legal_words :
    State.reset.phase = .idle ∧ encode .encData = .command 1 ∧ encode .rxFrame = .command 8 := by decide
/- StepRunsTheDecodedInstruction, EngineStepCompletes: a command; a frame under DECODE; and an IDLE engine's turn -/
theorem test_witness_step_command :
    let s := busyWith 7 State.reset
    s.nextTurn = some .engine ∧ s.phase = .busy ∧ decode (.command (s.pending.setWidth 32)) = .ok .lossGate := by
  exact ⟨rfl, rfl, rfl⟩
theorem test_witness_step_frame :
    let s := busyWith 4 (load en1 State.reset)
    s.nextTurn = some .engine ∧ s.phase = .busy ∧ s.pending = 4 ∧ s.inLen.toNat ≤ s.params.inBufSize ∧
      s.inBuf.bytes 0 s.inLen.toNat = some en1 ∧ decode (.frame en1) = .ok (.frameData 5 0xBEBD [0x41, 0x42]) := by
  exact ⟨rfl, rfl, rfl, by decide, by decide, rfl⟩
theorem test_witness_engine_idle :
    let s := { State.reset with turns := [.engine] }
    s.nextTurn = some .engine ∧ s.phase = .idle := by decide
theorem test_witness_engine_busy :
    let s := busyWith 5 (load hello State.reset)
    s.nextTurn = some .engine ∧ s.phase = .busy ∧ ∀ k < s.inLen.toNat, (s.inBuf.byte k).isSome := by decide
/- EveryInstructionCompletes: no octet, and a loaded frame -/
theorem test_witness_completes :
    (∀ k < State.reset.inLen.toNat, (State.reset.inBuf.byte k).isSome) ∧
      ∀ k < (load en1 State.reset).inLen.toNat, ((load en1 State.reset).inBuf.byte k).isSome := by decide
/- OnlyAnOctetWithoutValueStopsACommand: at the shortest lengths, with a gate that passes -/
theorem test_witness_no_value :
    (let s := { State.reset with inLen := 1 };
      s.inBuf.byte 0 = none ∧ s.inLen.toNat ≤ s.params.maxPayload) ∧
      (let s := periodic 2 { State.reset with inLen := 64 };
      s.inBuf.byte 63 = none ∧ s.inLen.toNat ≤ s.params.inBufSize ∧ 64 ≤ s.inLen.toNat ∧ s.GateConfigured ∧
        s.gateDrops = false ∧ fault? .rxFrame s = some .unwrittenOctet) := by decide
/- EncodersChangeOnlyTheOutput, OtherCommandsChangeOnlyTheirResults, OnlyConsultationsCountAndDraw: each instruction
completes somewhere; a state that consults and one that does not -/
theorem test_witness_encoders :
    [Instr.encData, .encAck, .encEof].all (fun i => completes i (load [0x41, 0x42] State.reset)) = true := by decide
theorem test_witness_encoder_error :
    (after .encData { State.reset with inLen := 513 }).errcode = .lengthError := by decide
theorem test_witness_others :
    [Instr.decode, .csumCompute, .csumValidate, .lossGate, .rxFrame, .frameData 5 0xBEBD [0x41], .frameAck 1 0,
      .frameEof 1 0].all (fun i => completes i (periodic 2 (load en1 State.reset))) = true := by decide +kernel
theorem test_witness_consults :
    (periodic 2 State.reset).GateConfigured ∧ State.reset.GateConfigured ∧ ¬(periodic 0 State.reset).GateConfigured := by
  decide
/- CommandsAreFunctionsOfTheirOperands: states that differ in what the instruction does not read: an operand register, a
result, an octet above IN_LEN and the buffers' rest -/
theorem test_witness_same_operands_csum :
    State.SameOperands .csumCompute (load [0x41] State.reset)
      { load [0x41] State.reset with
        argCsum := 7, resSeq := 9, inBuf := [(0, 0x41), (7, 0x55)], outBuf := [(3, 0x30)] } ∧
      completes .csumCompute (load [0x41] State.reset) = true := by
  exact ⟨⟨rfl, rfl, by decide⟩, by decide⟩
theorem test_witness_same_operands_ack :
    State.SameOperands .encAck State.reset { State.reset with inLen := 9, argCsum := 7 } ∧
      completes .encAck State.reset = true := by
  exact ⟨⟨rfl, rfl⟩, by decide⟩
theorem test_witness_same_operands_rx :
    State.SameOperands .rxFrame (periodic 2 State.reset) { periodic 2 State.reset with draws := 5, argSeq := 1 } ∧
      completes .rxFrame (periodic 2 State.reset) = true := by
  exact ⟨⟨rfl, ⟨rfl, rfl, rfl, rfl, fun h => absurd h (by decide)⟩, rfl, by decide⟩, by decide⟩
/- BusyHidesTheCommand, AccessesWhileBusyDoNotChangeTheResult -/
theorem test_witness_busy : (busyWith 5 State.reset).phase = .busy ∧ (busyWith 5 State.reset).BusyIsClean := by decide
/- BusyBlockCompletes: none and two host turns first -/
theorem test_witness_busy_completes :
    let s := { busyWith 5 (load hello State.reset) with turns := List.replicate 2 .host }
    s.phase = .busy ∧ s.inReset = false ∧ s.turns = List.replicate 2 .host ∧ s.host.script.length ≤ s.host.pc ∧
      (∀ k < s.inLen.toNat, (s.inBuf.byte k).isSome) ∧ (busyWith 5 State.reset).turns = List.replicate 0 .host := by decide

/- RegisterMapAndUnmappedOffsets: a misaligned offset and the first one past the map -/
theorem test_witness_unmapped : (0x3E % 4 ≠ 0 ∨ 0x40 ≤ 0x3E) ∧ (0x40 % 4 ≠ 0 ∨ 0x40 ≤ 0x40) := by decide
/- WrittenRegistersReadBack, LostWritesSetWign, BufferAccessesMoveOneOctet: the last index inside and the first outside -/
theorem test_witness_registers :
    State.reset.phase = .idle ∧ Reg.argCsum ∈ storingRegs ∧ Reg.lossCount ∈ storingRegs ∧ Reg.outLen ∈ readOnlyRegs := by
  decide
theorem test_witness_buffer_indices :
    575 < State.reset.params.inBufSize ∧ State.reset.params.inBufSize ≤ 576 ∧ 575 < State.reset.params.outBufSize ∧
      State.reset.params.outBufSize ≤ 576 := by decide
theorem test_witness_octets_with_value :
    (load hello State.reset).inBuf.byte 4 = some 0x6F ∧ (after .encEof State.reset).outBuf.byte 63 = some 0x30 := by decide
/- ReadsChangeNothing -/
theorem test_witness_reads : isRead (.regRead 0x04) = true ∧ isRead (.inRead 576) = true ∧ isRead (.outRead 0) = true := by
  decide
/- StatusFieldsAndTheirCodes: the last code and each frame kind occur -/
theorem test_witness_codes :
    (State.reset.raise .illegalCommand).errcode = .illegalCommand ∧ State.reset.resKind = none ∧
      (after (.frameData 0 0 []) State.reset).resKind = some .data ∧
      (after (.frameAck 0 0) State.reset).resKind = some .ack ∧
      (after (.frameEof 0 0) State.reset).resKind = some .eof := by decide
/- HostTurnRunsItsLine: an access; SET; GOTO, whose label is on line 1 -/
theorem test_witness_host_turn :
    let s := hosting [Script.rd .status 0, .stop]
    s.nextTurn = some .host ∧ s.inReset = false ∧ (s.host.action s.fresh).1 = .access (.regRead 0x04) (some 0) ∧
      scriptWellFormed s.host.script = true := by
  exact ⟨rfl, rfl, rfl, by decide⟩
theorem test_witness_host_set :
    let s := hosting [.set 0 (.add (.const 1) (.const 2))]
    s.nextTurn = some .host ∧ (s.host.action s.fresh).1 = .set 0 3 := by decide
theorem test_witness_host_goto :
    let s := hosting [.ifGoto (.const 1) 7, .label 7]
    s.nextTurn = some .host ∧ (s.host.action s.fresh).1 = .goto 7 ∧ labelLine 7 s.host.script 0 = some 1 := by decide
/- and a LABEL, an IF not taken, STOP, and a script that has run out -/
theorem test_witness_host_lines :
    let script := [Stmt.label 7, .ifGoto (.eq (.const 1) (.const 2)) 7, .stop]
    let at' (k : Nat) := { State.reset with host := { script := script, pc := k, names := [] } }
    script[0]? = some (.label 7) ∧ script[1]? = some (.ifGoto (.eq (.const 1) (.const 2)) 7) ∧
      (Expr.eval [] (.eq (.const 1) (.const 2)) 0).1 = 0 ∧ script[2]? = some .stop ∧ script.length ≤ 3 ∧
      [0, 1, 2, 3].map (fun k => (at' k).nextTurn) = List.replicate 4 (some .host) := by decide
/- NoAccessWhileInReset -/
theorem test_witness_access_in_reset :
    let s := { hosting [Script.wr .cmd (.const 1)] with inReset := true, turns := [.host] }
    s.inReset = true ∧ s.nextTurn = some .host ∧
      (s.host.action s.fresh).1 = .access (.regWrite 0x00 1) none ∧
      State.reset.assertReset.inReset = true ∧ State.reset.assertReset.turns = [] := by
  exact ⟨rfl, rfl, rfl, rfl, rfl⟩

/- EncDataWritesADataFrame: lengths 0, MAX_PAYLOAD and MAX_PAYLOAD + 1 -/
theorem test_witness_encData :
    State.reset.params.legal ∧ State.reset.inBuf.bytes 0 0 = some [] ∧
      (let s := { load [0x41] State.reset with params := smallParams };
      s.params.legal ∧ s.inLen.toNat = s.params.maxPayload ∧ s.inBuf.bytes 0 s.inLen.toNat = some [0x41]) ∧
      State.reset.params.maxPayload < ({ State.reset with inLen := 513 } : State).inLen.toNat := by decide
/- DecodeReportsTheFrame: too long, too short, a frame that fails, frames that decode -/
theorem test_witness_decode :
    State.reset.params.inBufSize < ({ State.reset with inLen := 577 } : State).inLen.toNat ∧
      (load (en1.take 63) State.reset).inLen.toNat < 64 ∧
      (let s := load (ones 64) State.reset;
      s.inLen.toNat ≤ s.params.inBufSize ∧ s.inBuf.bytes 0 s.inLen.toNat = some (ones 64) ∧
        decodeFrame (ones 64) = .error .unknownFrameType) ∧
      (let s := load en1 State.reset;
      s.inLen.toNat ≤ s.params.inBufSize ∧ s.inBuf.bytes 0 s.inLen.toNat = some en1 ∧
        decodeFrame en1 = .ok { kind := .data, seq := 5, csum := 0xBEBD, payload := [0x41, 0x42] }) := by
  exact ⟨by decide, by decide, ⟨by decide, by decide, rfl⟩, by decide, by decide, rfl⟩
/- DecodeRunsTheEncodedFrame: the longest payload that fits -/
theorem test_witness_decode_runs :
    let i := Instr.frameData 5 0xBEBD [0x41, 0x42]
    let s := { load en1 State.reset with params := { maxPayload := 2, wRand := 1 } }
    i.wellFormed = true ∧ i.fits s.params = true ∧ encode i = .frame en1 ∧ s.inLen.toNat = en1.length ∧
      s.inBuf.bytes 0 en1.length = some en1 := by decide
/- EncodersRoundTripThroughDecode: the host copied what ENC_ACK wrote -/
theorem test_witness_round_trip :
    let s := { State.reset with argSeq := 0x2A }
    let t := after .encAck s
    let u := { t with inBuf := t.outBuf, inLen := t.outLen }
    s.params.legal ∧ completes .encAck s = true ∧ t.errcode = .none ∧ u.params = s.params ∧ u.inLen = t.outLen ∧
      ∀ k < t.outLen.toNat, u.inBuf.byte k = t.outBuf.byte k := by decide

/- CsumComputeWritesTheChecksum, CsumValidateComparesTheChecksum: the empty payload, and a match and a mismatch -/
theorem test_witness_csum :
    (let s := { load hello State.reset with argCsum := 0xDC2D };
      s.inLen.toNat ≤ s.params.inBufSize ∧ s.inBuf.bytes 0 s.inLen.toNat = some hello ∧ s.argCsum = computeChecksum hello) ∧
      (State.reset.inBuf.bytes 0 State.reset.inLen.toNat = some [] ∧ State.reset.argCsum ≠ computeChecksum []) ∧
      State.reset.params.inBufSize < ({ State.reset with inLen := 577 } : State).inLen.toNat := by decide

/- LossGateGivesItsVerdict, RandomModeAtItsExtremes: P = 0, P = 2^W_RAND, P one more; K = 1, K = 0; MODE 2 -/
theorem test_witness_gate :
    (State.reset.lossMode = 0 ∧ State.reset.lossThresh = 0) ∧
      (let s := { State.reset with lossThresh := 0x80000000 };
      s.lossMode = 0 ∧ s.lossThresh.toNat = 2 ^ s.params.wRand) ∧
      ((periodic 1 State.reset).lossMode = 1 ∧ 1 ≤ (periodic 1 State.reset).lossPeriod.toNat) ∧
      (let s := { State.reset with lossThresh := 0x80000001 };
      (s.lossMode ≠ 0 ∨ 2 ^ s.params.wRand < s.lossThresh.toNat) ∧ (s.lossMode ≠ 1 ∨ s.lossPeriod = 0)) ∧
      (let s := periodic 0 State.reset;
      (s.lossMode ≠ 0 ∨ 2 ^ s.params.wRand < s.lossThresh.toNat) ∧ (s.lossMode ≠ 1 ∨ s.lossPeriod = 0)) ∧
      let s := { State.reset with lossMode := 2 }
      (s.lossMode ≠ 0 ∨ 2 ^ s.params.wRand < s.lossThresh.toNat) ∧ (s.lossMode ≠ 1 ∨ s.lossPeriod = 0) := by decide
/- PeriodicModeDropsEveryKth -/
theorem test_witness_periodic :
    (periodic 3 State.reset).lossMode = 1 ∧ 1 ≤ (periodic 3 State.reset).lossPeriod.toNat ∧
      (periodic 3 State.reset).lossCount = 0 ∧ 6 < 2 ^ 32 := by decide

/- RxFrameOutcomes: each exit -/
theorem test_witness_rx :
    (State.reset.valid = false ∧ State.reset.drop = false) ∧
      State.reset.params.inBufSize < ({ State.reset with inLen := 577 } : State).inLen.toNat ∧
      (let s := periodic 0 State.reset;
      s.inLen.toNat ≤ s.params.inBufSize ∧ ¬s.GateConfigured) ∧
      (let s := periodic 1 State.reset;
      s.inLen.toNat ≤ s.params.inBufSize ∧ s.GateConfigured ∧ s.gateDrops = true) ∧
      (let s := periodic 2 { State.reset with inLen := 63 };
      s.inLen.toNat < 64 ∧ s.GateConfigured ∧ s.gateDrops = false) ∧
      let s := periodic 2 (load en1 State.reset)
      s.inLen.toNat ≤ s.params.inBufSize ∧ s.GateConfigured ∧ s.gateDrops = false ∧
        s.inBuf.bytes 0 s.inLen.toNat = some en1 := by decide
/- RxFrameIsGateThenDecodeThenValidate: the gate fails, drops, passes; DECODE completes, and CSUM_VALIDATE gets the payload -/
theorem test_witness_rx_gate_only :
    (after .lossGate (periodic 0 State.reset)).errcode ≠ .none ∧ completes .lossGate (periodic 0 State.reset) = true ∧
      (after .lossGate (periodic 1 State.reset)).errcode = .none ∧ (after .lossGate (periodic 1 State.reset)).drop = true ∧
      completes .lossGate (periodic 1 State.reset) = true := by decide
theorem test_witness_rx_is :
    let s := periodic 2 (load en1 State.reset)
    let g := after .lossGate s
    let d := after .decode g
    let u := { load [0x41, 0x42] State.reset with argCsum := 0xBEBD }
    s.inLen.toNat ≤ s.params.inBufSize ∧ completes .lossGate s = true ∧ g.errcode = .none ∧ g.drop = false ∧
      s.drop = false ∧ completes .decode g = true ∧ d.errcode = .none ∧ d.resKind = some .data ∧ u.params = s.params ∧
      u.valid = s.valid ∧ u.argCsum = d.resCsum ∧ u.inLen = d.resPlen ∧
      u.inBuf.bytes 0 d.resPlen.toNat = s.inBuf.bytes 64 d.resPlen.toNat := by decide +kernel
theorem test_witness_rx_is_ack :
    let g := after .lossGate (periodic 2 (load en2 State.reset))
    g.errcode = .none ∧ g.drop = false ∧ completes .decode g = true ∧ (after .decode g).resKind ≠ some .data := by
  decide +kernel

end Sys2Proof.Tests
end

section
/-! PROOFS. The parameters are the block's own and constant (R7, R37, R38); a draw stays in its range (R14). -/

/-- A draw is cut to W_RAND bits (R14). -/
theorem Sys2Proof.Config.draw_lt (p : Sys2Proof.Params) (n : Nat) : Sys2Proof.Config.draw p n < 2 ^ p.wRand :=
  Nat.mod_lt _ (Nat.two_pow_pos p.wRand)

namespace Sys2Proof.Machine

open Sys2Proof

namespace State

/-! ### The parameters under the host's accesses and the reset input -/

theorem whileIdle_params {s w : State} (h : w.params = s.params) : (s.whileIdle (write := w)).params = s.params := by
  unfold whileIdle
  split
  · rfl
  · exact h

theorem writeReg_params (r : Reg) (v : Word) (s : State) : (s.writeReg r v).params = s.params := by
  cases r with
  | cmd | argSeq | argCsum | inLen | lossMode | lossThresh | lossPeriod | lossCount => exact whileIdle_params rfl
  | status | outLen | resSeq | resCsum | resKind | resPlen | paramMaxpl | paramWrand => rfl

theorem regWrite_params (off : Nat) (v : Word) (s : State) : (s.regWrite off v).params = s.params := by
  unfold regWrite
  split
  · exact writeReg_params _ v s
  · rfl

theorem inRead_params (i : Nat) (s : State) : (s.inRead i).2.params = s.params := by
  unfold inRead
  split
  · split <;> rfl
  · rfl

theorem outRead_params (i : Nat) (s : State) : (s.outRead i).2.params = s.params := by
  unfold outRead
  split
  · split <;> rfl
  · rfl

theorem inWrite_params (i : Nat) (v : Byte) (s : State) : (s.inWrite i v).params = s.params := by
  unfold inWrite
  split
  · exact whileIdle_params rfl
  · rfl

/-- No access of the host changes the parameters, in either phase (R37, R38). -/
@[simp] theorem access_params (a : Access) (s : State) : (s.access a).2.params = s.params := by
  cases a with
  | regRead off => rfl
  | regWrite off v => exact regWrite_params off v s
  | inRead i => exact inRead_params i s
  | inWrite i v => exact inWrite_params i v s
  | outRead i => exact outRead_params i s
  | outWrite i v => rfl

@[simp] theorem hostAccess_params (a : Access) (x : Option Nat) (s : State) :
    (s.hostAccess a x).params = s.params := access_params a s

@[simp] theorem assertReset_params (s : State) : s.assertReset.params = s.params := rfl

@[simp] theorem releaseReset_params (s : State) : s.releaseReset.params = s.params := by
  unfold releaseReset
  split <;> rfl

/-! ### What PARAM_MAXPL and PARAM_WRAND read -/

theorem regRead_paramMaxpl (s : State) : s.regRead 0x38 = BitVec.ofNat 32 s.params.maxPayload := rfl

theorem regRead_paramWrand (s : State) : s.regRead 0x3C = (BitVec.ofNat 5 s.params.wRand).setWidth 32 := rfl

end State

/-! ### The parameters under the turns -/

theorem hostTurn_params {s t : State} (h : hostTurn s = .next t) : t.params = s.params := by
  obtain ⟨a, x, -, -, rfl⟩ | ⟨g, rfl⟩ | rfl := hostTurn_cases h
  · simp
  · rfl
  · rfl

theorem engineStep_params {s t : State} (h : engineStep s = .next t) : t.params = s.params := by
  obtain ⟨i, -, hi⟩ | ⟨-, rfl⟩ := engineStep_cases h
  · exact (completes_of_exec hi).params
  · rfl

/-- No event of the total order changes the parameters. -/
theorem step_params {s t : State} (h : step s = .next t) : t.params = s.params := by
  obtain ⟨-, rfl⟩ | ⟨-, hh⟩ | ⟨-, -, rfl⟩ | ⟨-, -, he⟩ | ⟨-, rfl⟩ | ⟨-, rfl⟩ := step_cases h
  · rfl
  · exact (hostTurn_params hh).trans (State.popTurn_params s)
  · rfl
  · exact (engineStep_params he).trans (State.popTurn_params s)
  · rfl
  · simp

/-- Settles O22: every turn keeps the parameters, and the two registers read nothing else. -/
theorem parametersNeverChange : Obligations.ParametersNeverChange := by
  intro s t h
  have hp := step_params h
  refine ⟨hp, ?_, ?_⟩
  · rw [State.regRead_paramMaxpl, State.regRead_paramMaxpl, hp]
  · rw [State.regRead_paramWrand, State.regRead_paramWrand, hp]

/-- Settles O54: the draw to come is one of the configuration's draws. -/
theorem drawsAreInRange : Obligations.DrawsAreInRange := fun s => Config.draw_lt s.params s.draws

end Sys2Proof.Machine
end

section
/-! PROOFS. The register space: the map, STATUS, and the registers a host write stores into (R22, R24, R62). -/

namespace Sys2Proof

/-! ### The register map -/

@[simp] theorem regAt_offset (r : Reg) : regAt r.offset = some r := by cases r <;> rfl

/-- The map finds a register at its own offset only. -/
theorem offset_of_regAt {off : Nat} {r : Reg} (h : regAt off = some r) : r.offset = off := by
  unfold regAt at h
  split at h <;> cases h <;> rfl

theorem offset_aligned (r : Reg) : r.offset % 4 = 0 ∧ r.offset < 0x40 := by cases r <;> decide

/-- The sixteen aligned offsets below 0x40 all name a register. -/
theorem regAt_aligned : ∀ k < 16, regAt (4 * k) ≠ none := by decide

/-- The offsets that name no register (R62). -/
theorem regAt_eq_none_iff {off : Nat} : regAt off = none ↔ off % 4 ≠ 0 ∨ 0x40 ≤ off := by
  constructor
  · intro h
    by_contra hc
    have hoff : off = 4 * (off / 4) := by omega
    rw [hoff] at h
    exact regAt_aligned (off / 4) (by omega) h
  · intro h
    cases hr : regAt off with
    | none => rfl
    | some r =>
      have := offset_aligned r
      rw [offset_of_regAt hr] at this
      omega

/-- No error code above 7 is ever shown (R220). -/
theorem ErrCode.code_le (e : ErrCode) : e.code.toNat ≤ 7 := by cases e <;> decide

namespace Machine

namespace State

@[simp] theorem regRead_offset (r : Reg) (s : State) : s.regRead r.offset = s.readReg r := by simp [regRead]

@[simp] theorem regWrite_offset (r : Reg) (v : Word) (s : State) : s.regWrite r.offset v = s.writeReg r v := by
  simp [regWrite]

theorem regRead_unmapped {off : Nat} (h : regAt off = none) (s : State) : s.regRead off = 0 := by simp [regRead, h]

theorem regWrite_unmapped {off : Nat} (h : regAt off = none) (v : Word) (s : State) : s.regWrite off v = s := by
  simp [regWrite, h]

theorem regRead_status (s : State) : s.regRead 0x04 = s.statusWord := rfl

theorem regRead_resKind (s : State) : s.regRead 0x20 = (kindCode s.resKind).setWidth 32 := rfl

end State

/-- Settles O36: the map and its inverse, register by register. -/
theorem registerMapAndUnmappedOffsets : Obligations.RegisterMapAndUnmappedOffsets := by
  refine ⟨regAt_offset, fun _ => regAt_eq_none_iff, fun s off v h => ?_⟩
  have hn := regAt_eq_none_iff.2 h
  exact ⟨State.regRead_unmapped hn s, State.regWrite_unmapped hn v s⟩

/-- Settles O38: the write rule of STATUS does not look at the phase. -/
theorem statusWriteClearsWign : Obligations.StatusWriteClearsWign := fun s v => State.regWrite_offset .status v s

namespace State

/-- Every bit of STATUS (R24). -/
theorem getLsbD_statusWord (s : State) (i : Nat) :
    s.statusWord.getLsbD i =
      if i = 0 then s.busy else if i = 1 then s.done else if i = 2 then s.wign else if i = 3 then s.valid
      else if i = 4 then s.drop else if i < 8 then false else s.errcode.code.getLsbD (i - 8) := by
  simp only [statusWord, BitVec.getLsbD_append, BitVec.getLsbD_zero, BitVec.getLsbD_ofBool]
  rcases i with _ | _ | _ | _ | _ | i
  · simp
  · simp
  · simp
  · simp
  · simp
  · have hhigh : ¬ i - 3 < 4 → s.errcode.code.getLsbD (i - 3) = false := fun h =>
      BitVec.getLsbD_of_ge _ _ (Nat.not_lt.1 h)
    by_cases h : i < 3
    · simp [h]
    · have h8 : ¬ i + 1 + 1 + 1 + 1 + 1 < 8 := by omega
      by_cases h4 : i - 3 < 4
      · simp [h, h4, h8]
      · simp [h, h4, hhigh h4]

/-- The bits of STATUS above the flags: the reserved bits 7:5 and, from bit 8, the error's code (R24). -/
theorem getLsbD_statusWord_of_ge (s : State) {i : Nat} (h : 5 ≤ i) :
    s.statusWord.getLsbD i = if i < 8 then false else s.errcode.code.getLsbD (i - 8) := by
  rw [getLsbD_statusWord, if_neg, if_neg, if_neg, if_neg, if_neg] <;> omega

theorem statusWord_reserved_low (s : State) : s.statusWord.extractLsb' 5 3 = 0 := by
  apply BitVec.eq_of_getLsbD_eq
  intro i hi
  simp [getLsbD_statusWord_of_ge, hi, show 5 + i < 8 by omega]

theorem statusWord_errcode (s : State) : s.statusWord.extractLsb' 8 4 = s.errcode.code := by
  apply BitVec.eq_of_getLsbD_eq
  intro i hi
  simp [getLsbD_statusWord_of_ge s (show 5 ≤ 8 + i by omega), hi]

theorem statusWord_reserved_high (s : State) : s.statusWord.extractLsb' 12 20 = 0 := by
  apply BitVec.eq_of_getLsbD_eq
  intro i hi
  rw [BitVec.getLsbD_extractLsb', getLsbD_statusWord_of_ge s (by omega), if_neg (by omega),
    BitVec.getLsbD_of_ge _ _ (by omega)]
  simp

end State

/-- Settles O37: each field is read off the one lemma about the bits of STATUS, and each code by its error. -/
theorem statusFieldsAndTheirCodes : Obligations.StatusFieldsAndTheirCodes := by
  intro s
  have hbusy : s.busy = decide (s.phase = .busy) := by cases h : s.phase <;> simp [State.busy, h]
  simp only [State.regRead_status, State.regRead_resKind, State.statusWord_errcode]
  refine ⟨(s.getLsbD_statusWord 0).trans hbusy, s.getLsbD_statusWord 1, s.getLsbD_statusWord 2,
    s.getLsbD_statusWord 3, s.getLsbD_statusWord 4, s.statusWord_reserved_low, ?_, ?_, ?_, ?_, ?_, ?_, ?_, ?_,
    s.errcode.code_le, s.statusWord_reserved_high, ?_, ?_, ?_, ?_⟩
  all_goals
    intro h
    rw [h]
    rfl

/-- PARAM_WRAND keeps five bits, which hold every legal W_RAND (R38). -/
theorem paramWrand_setWidth {n : Nat} (h : n ≤ 31) : (BitVec.ofNat 5 n).setWidth 32 = BitVec.ofNat 32 n := by
  apply BitVec.eq_of_toNat_eq
  simp only [BitVec.toNat_setWidth, BitVec.toNat_ofNat]
  omega

namespace State

theorem statusWord_resetWith (p : Params) : (resetWith p).statusWord = 0 := by
  simp only [statusWord, resetWith, busy]
  decide

theorem readReg_resetWith {p : Params} (hp : p.legal) (r : Reg) : (resetWith p).readReg r = resetValue p r := by
  obtain ⟨-, -, -, hw⟩ := hp
  cases r with
  | status => exact statusWord_resetWith p
  | paramWrand => exact paramWrand_setWidth hw
  | _ => rfl

end State

/-- Settles O17, register by register; PARAM_WRAND is the one that needs the bound on W_RAND. -/
theorem resetStateShowsResetValues : Obligations.ResetStateShowsResetValues := by
  refine ⟨fun p hp r => ?_, fun p => ⟨rfl, fun i => ⟨rfl, rfl⟩⟩⟩
  rw [State.regRead_offset, State.readReg_resetWith hp]

/-! ### Written registers -/

/-- A register that keeps its low `w` bits reads back the value with the other bits cleared (R39). -/
theorem setWidth_setWidth_eq_and (v : Word) (w : Nat) (h : w ≤ 32) :
    (v.setWidth w).setWidth 32 = v &&& BitVec.ofNat 32 (2 ^ w - 1) := by
  apply BitVec.eq_of_toNat_eq
  have hw : 2 ^ w ≤ 2 ^ 32 := Nat.pow_le_pow_right (by omega) h
  have hp : 0 < 2 ^ w := by positivity
  rw [BitVec.toNat_setWidth, BitVec.toNat_setWidth, BitVec.toNat_and, BitVec.toNat_ofNat,
    Nat.mod_eq_of_lt (show 2 ^ w - 1 < 2 ^ 32 by omega), Nat.and_two_pow_sub_one_eq_mod]
  exact Nat.mod_eq_of_lt ((Nat.mod_lt _ hp).trans_le hw)

theorem mem_storingRegs {r : Reg} :
    r ∈ storingRegs ↔ r = .argSeq ∨ r = .argCsum ∨ r = .inLen ∨ r = .lossMode ∨ r = .lossThresh ∨ r = .lossPeriod ∨
      r = .lossCount := by
  simp [storingRegs]

namespace State

section Stored
variable {s : State} {r : Reg} (v : Word) (hi : s.phase = .idle) (hr : r ∈ storingRegs)
include hi hr

/-- A stored register keeps the part of the value that R26 and R33 name. -/
theorem readReg_writeReg_self : (s.writeReg r v).readReg r = storedPart r v := by
  obtain rfl | rfl | rfl | rfl | rfl | rfl | rfl := mem_storingRegs.1 hr <;>
    simp only [writeReg, whileIdle_of_idle _ hi, readReg, storedPart]
  · exact setWidth_setWidth_eq_and v 16 (by omega)
  · exact setWidth_setWidth_eq_and v 2 (by omega)

/-- Each register shows a field of its own, so a write of one is not seen in another. -/
theorem readReg_writeReg_ne {q : Reg} (hq : q ≠ r) : (s.writeReg r v).readReg q = s.readReg q := by
  obtain rfl | rfl | rfl | rfl | rfl | rfl | rfl := mem_storingRegs.1 hr <;>
    cases q <;> simp [writeReg, whileIdle_of_idle _ hi, readReg, statusWord, busy] at hq ⊢

/-- A stored register is no part of the engine and of no buffer. -/
theorem writeReg_keeps :
    (s.writeReg r v).phase = .idle ∧ (s.writeReg r v).inBuf = s.inBuf ∧ (s.writeReg r v).outBuf = s.outBuf := by
  obtain rfl | rfl | rfl | rfl | rfl | rfl | rfl := mem_storingRegs.1 hr <;>
    simp [writeReg, whileIdle_of_idle _ hi, hi]

end Stored

end State

/-- Settles O39: the register written keeps its stored part, every other one reads as before. -/
theorem writtenRegistersReadBack : Obligations.WrittenRegistersReadBack := by
  intro s r v hi hr
  obtain ⟨hphase, hin, hout⟩ := State.writeReg_keeps v hi hr
  simp only [State.regWrite_offset, State.regRead_offset]
  exact ⟨State.readReg_writeReg_self v hi hr, fun q hq => State.readReg_writeReg_ne v hi hr hq, hphase,
    fun i => ⟨by rw [hin], by rw [hout]⟩⟩

end Machine
end Sys2Proof
end

section
/-! PROOFS. The invariant: it holds after reset, every event keeps it, so every reachable state meets it (R44, R71, R250). -/

namespace Sys2Proof

/-- A decoded frame fits the block: its payload is within MAX_PAYLOAD, and only a DATA frame has one (R32, R141). -/
def Frame.Fits (p : Params) (f : Frame) : Prop :=
  f.payload.length ≤ p.maxPayload ∧ (f.kind ≠ .data → f.payload = [])

namespace Machine

namespace State

/-! ### The invariant in layers

`DataInv` is the part that the phase and the flags have no share in. `RunInv` is the invariant of a block that is not held in
reset. `Executing` is what a command finds and keeps until it completes. -/

/-- The part of the invariant about the parameters, the buffers and the results. -/
def DataInv (s : State) : Prop := s.params.legal ∧ s.BuffersFit ∧ s.ResultsAgree ∧ s.OutputAgrees

/-- The invariant of a block whose reset input is not asserted. -/
def RunInv (s : State) : Prop := s.inReset = false ∧ s.DataInv ∧ s.BusyIsClean ∧ s.FlagsAgree

/-- What holds between the acceptance of a command and its result flags (R114). -/
def Executing (s : State) : Prop := s.inReset = false ∧ s.DataInv ∧ s.valid = false ∧ s.drop = false

theorem inv_of_runInv {s : State} (h : s.RunInv) : s.Inv := by
  obtain ⟨hrel, ⟨hp, hbuf, hres, hout⟩, hbusy, hflags⟩ := h
  exact ⟨hp, hbuf, hbusy, hflags, hres, hout, fun hr => by rw [hrel] at hr; cases hr⟩

theorem runInv_of_inv {s : State} (h : s.Inv) (hrel : s.inReset = false) : s.RunInv := by
  obtain ⟨hp, hbuf, hbusy, hflags, hres, hout, -⟩ := h
  exact ⟨hrel, ⟨hp, hbuf, hres, hout⟩, hbusy, hflags⟩

/-- A BUSY block is not held in reset, where it would be IDLE, and its result flags are clear. -/
theorem executing_of_busy {s : State} (h : s.Inv) (hb : s.phase = .busy) : s.Executing := by
  have hrel : s.inReset = false := by
    obtain ⟨-, -, -, -, -, -, hheld⟩ := h
    cases hr : s.inReset with
    | false => rfl
    | true =>
      have hidle : s.phase = .idle := congrArg State.phase (hheld hr)
      rw [hb] at hidle
      cases hidle
  obtain ⟨-, hdata, hbusy, -⟩ := runInv_of_inv h hrel
  obtain ⟨-, hv, hd, -, -⟩ := hbusy hb
  exact ⟨hrel, hdata, hv, hd⟩

/-! ### Reset -/

/-- A block at its reset values meets the invariant, whatever PENDING, the reset input and the model's own fields are. -/
theorem inv_of_resetValues {p : Params} (hp : p.legal) (pe : BitVec 4) (ir : Bool) (d f : Nat) (g : HostAgent)
    (ts : List Turn) :
    { resetWith p with pending := pe, inReset := ir, draws := d, fresh := f, host := g, turns := ts }.Inv := by
  refine ⟨hp, ?_, ?_, ?_, ?_, ?_, ?_⟩
  · simp [BuffersFit, resetWith]
  · intro h
    cases h
  · simp [FlagsAgree, resetWith]
  · simp [ResultsAgree, resetWith]
  · simp [OutputAgrees, resetWith]
  · intro h
    simp only at h
    subst h
    rfl

theorem inv_resetWith {p : Params} (hp : p.legal) : (resetWith p).Inv := inv_of_resetValues hp 0 false 0 0 _ []

theorem inv_assertReset {s : State} (hp : s.params.legal) : s.assertReset.Inv := inv_of_resetValues hp _ true _ _ _ _

theorem inv_releaseReset {s : State} (h : s.Inv) : s.releaseReset.Inv := by
  unfold releaseReset
  split
  · exact inv_of_resetValues h.1 _ false _ _ _ _
  · exact h

/-! ### The model's own fields -/

/-- The host, the order of turns and the counter of free values have no part in the invariant. -/
theorem inv_of_agents {s : State} (h : s.Inv) (f : Nat) (g : HostAgent) (ts : List Turn) :
    { s with fresh := f, host := g, turns := ts }.Inv := by
  obtain ⟨hp, hbuf, hbusy, hflags, hres, hout, hheld⟩ := h
  exact ⟨hp, hbuf, hbusy, hflags, hres, hout, fun hr =>
    congrArg (fun u : State => { u with fresh := f, host := g, turns := ts }) (hheld hr)⟩

theorem inv_popTurn {s : State} (h : s.Inv) : s.popTurn.Inv := inv_of_agents h _ _ _

/-! ### The host's accesses -/

theorem runInv_whileIdle {s w : State} (h : s.RunInv) (hw : w.RunInv) : (s.whileIdle (write := w)).RunInv := by
  unfold whileIdle
  split
  · exact h
  · exact hw

theorem runInv_accept {s : State} (h : s.RunInv) (w : Word) : (s.accept w).RunInv := by
  obtain ⟨hrel, hd, -, -⟩ := h
  refine ⟨hrel, hd, fun _ => ⟨rfl, rfl, rfl, rfl, ?_⟩, ?_⟩
  · rw [accept_pending]
    split
    · next hw =>
      obtain ⟨-, -, h8⟩ := hw
      exact h8
    · simp
  · simp [FlagsAgree]

theorem runInv_writeReg {s : State} (h : s.RunInv) (r : Reg) (v : Word) : (s.writeReg r v).RunInv := by
  cases r with
  | cmd => exact runInv_whileIdle h (runInv_accept h v)
  | argSeq | argCsum | inLen | lossMode | lossThresh | lossPeriod | lossCount => exact runInv_whileIdle h h
  | status | outLen | resSeq | resCsum | resKind | resPlen | paramMaxpl | paramWrand => exact h

theorem runInv_regWrite {s : State} (h : s.RunInv) (off : Nat) (v : Word) : (s.regWrite off v).RunInv := by
  unfold regWrite
  split
  · exact runInv_writeReg h _ v
  · exact h

theorem runInv_inWrite {s : State} (h : s.RunInv) (i : Nat) (v : Byte) : (s.inWrite i v).RunInv := by
  unfold inWrite
  split
  · next hi =>
    refine runInv_whileIdle h ?_
    obtain ⟨hrel, ⟨hp, ⟨hwin, hwout, hin, hout⟩, hres, ho⟩, hbusy, hflags⟩ := h
    exact ⟨hrel, ⟨hp, ⟨Memory.wf_setByte i v hwin, hwout, Memory.fits_setByte v hin hi, hout⟩, hres, ho⟩, hbusy, hflags⟩
  · exact h

theorem runInv_inRead {s : State} (h : s.RunInv) (i : Nat) : (s.inRead i).2.RunInv := by
  unfold inRead
  split
  · split <;> exact h
  · exact h

theorem runInv_outRead {s : State} (h : s.RunInv) (i : Nat) : (s.outRead i).2.RunInv := by
  unfold outRead
  split
  · split <;> exact h
  · exact h

theorem runInv_access {s : State} (h : s.RunInv) (a : Access) : (s.access a).2.RunInv := by
  cases a with
  | regRead off => exact h
  | regWrite off v => exact runInv_regWrite h off v
  | inRead i => exact runInv_inRead h i
  | inWrite i v => exact runInv_inWrite h i v
  | outRead i => exact runInv_outRead h i
  | outWrite i v => exact h

/-! ### The writes of a command -/

theorem executing_emit {s : State} {F : List Byte} (h : s.Executing) (h64 : hdrLen ≤ F.length)
    (hn : F.length ≤ s.params.outBufSize) : (s.emit F).Executing := by
  obtain ⟨hrel, ⟨hp, ⟨hwin, hwout, hin, hout⟩, hres, -⟩, hflags⟩ := h
  have hlen : (BitVec.ofNat 32 F.length).toNat = F.length := by
    obtain ⟨-, hsize, -⟩ := hp
    exact Nat.mod_eq_of_lt (hn.trans_lt hsize)
  have hfits := Memory.fits_setBytes F hout (by rwa [Nat.zero_add])
  refine ⟨hrel, ⟨hp, ⟨hwin, Memory.wf_setBytes 0 F hwout, hin, hfits⟩, hres, ?_, ?_, ?_⟩, hflags⟩
  · simp only [emit_outLen, hlen]
    exact .inr h64
  · simpa only [emit_outLen, emit_params, hlen] using hn
  · intro i hi
    rw [emit_outLen, hlen] at hi
    simp [Memory.byte_setBytes, hi]

/-- An encoded frame whose payload is within MAX_PAYLOAD fits OUT_BUF (R130). -/
theorem executing_emit_encodeFrame {s : State} (h : s.Executing) (k : FrameKind) (q : Word) (c : Half) {P : List Byte}
    (hP : P.length ≤ s.params.maxPayload) : (s.emit (encodeFrame k q c P)).Executing := by
  apply executing_emit h <;> rw [encodeFrame_length]
  · exact Nat.le_add_right _ _
  · unfold Params.outBufSize
    split <;> omega

theorem executing_setResult {s : State} {f : Frame} (h : s.Executing) (hf : f.Fits s.params) :
    (s.setResult f).Executing := by
  obtain ⟨hrel, ⟨hp, hbuf, -, hout⟩, hflags⟩ := h
  obtain ⟨hlen, hempty⟩ := hf
  refine ⟨hrel, ⟨hp, hbuf, ⟨(Nat.mod_le _ _).trans hlen, fun hk => ?_, by simp⟩, hout⟩, hflags⟩
  simp [hempty (by simpa using hk)]

theorem executing_clearResult {s : State} (h : s.Executing) : s.clearResult.Executing := by
  obtain ⟨hrel, ⟨hp, hbuf, -, hout⟩, hflags⟩ := h
  exact ⟨hrel, ⟨hp, hbuf, ⟨Nat.zero_le _, fun _ => rfl, fun _ => rfl⟩, hout⟩, hflags⟩

theorem executing_setResCsum {s : State} (h : s.Executing) (c : Half) : (s.setResCsum c).Executing := h

theorem executing_countConsultation {s : State} (h : s.Executing) (c : Word) : (s.countConsultation c).Executing := h

/-! ### The ways a command completes -/

theorem runInv_finish {s : State} (h : s.Executing) (e : ErrCode) : (s.finish e).RunInv := by
  obtain ⟨hrel, hdata, hv, hd⟩ := h
  exact ⟨hrel, hdata, nofun, by simp [FlagsAgree, hv, hd]⟩

theorem runInv_valid {s : State} (h : s.Executing) : s.setValid.succeed.RunInv := by
  obtain ⟨hrel, hdata, -, hd⟩ := h
  exact ⟨hrel, hdata, nofun, by simp [FlagsAgree, hd]⟩

theorem runInv_drop {s : State} (h : s.Executing) (d : Bool) : (s.setDrop d).succeed.RunInv := by
  obtain ⟨hrel, hdata, hv, -⟩ := h
  exact ⟨hrel, hdata, nofun, by simp [FlagsAgree, hv]⟩

/-! ### The commands -/

/-- A frame decoded from no more octets than IN_BUF has fits the block (R7, R141). -/
theorem fits_of_decodeFrame {p : Params} {F : List Byte} {f : Frame} (h : decodeFrame F = .ok f)
    (hn : F.length ≤ p.inBufSize) : f.Fits p := by
  have hp := payload_of_decodeFrame h
  refine ⟨?_, fun hk => by rw [hp, if_neg hk]⟩
  rw [hp]
  split
  · rw [List.length_drop]
    unfold Params.inBufSize hdrLen at hn
    omega
  · exact Nat.zero_le _

/-- A frame read from IN_BUF is the decode of IN_LEN octets. -/
theorem decodeFrame_of_inFrame {s : State} {f : Frame} (h : s.inFrame = some (.ok f)) :
    ∃ F, decodeFrame F = .ok f ∧ F.length = s.inCount := by
  obtain ⟨-, hf⟩ | ⟨-, -, hf⟩ | ⟨-, F, hF, hf⟩ := s.inFrame_cases <;> rw [hf] at h
  · cases h
  · cases h
  · exact ⟨F, Option.some.inj h, (inOctets_eq_some.1 hF).1⟩

/-- The receive path keeps the invariant (R200). -/
theorem runInv_receive {s : State} {d : Except FrameError Frame} (h : s.Executing)
    (hf : ∀ f, d = .ok f → f.Fits s.params) : (s.receive d).RunInv := by
  unfold receive
  cases d with
  | error e => exact runInv_finish (executing_clearResult h) _
  | ok f =>
    have hset := executing_setResult h (hf f rfl)
    dsimp only
    split
    · split
      · exact runInv_valid hset
      · exact runInv_finish hset _
    · exact runInv_finish hset _
    · exact runInv_finish hset _

end State

section Commands
variable {s t : State} (h : s.Executing)
include h

theorem runInv_execEncData (hs : execEncData s = .next t) : t.RunInv := by
  unfold execEncData at hs
  split at hs
  · cases hs
    exact State.runInv_finish h _
  · next hn =>
    cases ho : s.inOctets with
    | none =>
      rw [ho] at hs
      cases hs
    | some P =>
      have hlen := (State.inOctets_eq_some.1 ho).1
      rw [ho] at hs
      cases hs
      exact State.runInv_finish (State.executing_emit_encodeFrame h .data _ _ (by omega)) _

theorem runInv_execDecode (hs : execDecode s = .next t) : t.RunInv := by
  unfold execDecode at hs
  split at hs
  · cases hs
    exact State.runInv_finish h _
  · next hn =>
    split at hs
    · cases hs
    · cases hs
      exact State.runInv_finish (State.executing_clearResult h) _
    · next f hf =>
      obtain ⟨F, hF, hlen⟩ := State.decodeFrame_of_inFrame hf
      rw [runFrame_of_decodeFrame hF] at hs
      cases hs
      exact State.runInv_finish (State.executing_setResult h (State.fits_of_decodeFrame hF (by omega))) _

theorem runInv_execCsumCompute (hs : execCsumCompute s = .next t) : t.RunInv := by
  unfold execCsumCompute at hs
  split at hs
  · cases hs
    exact State.runInv_finish h _
  · split at hs <;> cases hs
    exact State.runInv_finish (State.executing_setResCsum h _) _

theorem runInv_execCsumValidate (hs : execCsumValidate s = .next t) : t.RunInv := by
  unfold execCsumValidate at hs
  split at hs
  · cases hs
    exact State.runInv_finish h _
  · split at hs <;> cases hs
    split
    · exact State.runInv_valid (State.executing_setResCsum h _)
    · exact State.runInv_finish (State.executing_setResCsum h _) _

theorem runInv_execLossGate (hs : execLossGate s = .next t) : t.RunInv := by
  unfold execLossGate at hs
  obtain ⟨-, hc⟩ | ⟨-, hc⟩ := s.consult_cases <;> rw [hc] at hs <;> cases hs
  · exact State.runInv_finish h _
  · exact State.runInv_drop (State.executing_countConsultation h _) _

theorem runInv_execRxFrame (hs : execRxFrame s = .next t) : t.RunInv := by
  have hcount := State.executing_countConsultation h (s.lossCount + 1)
  have hdrop := State.runInv_drop (State.executing_clearResult hcount) true
  unfold execRxFrame at hs
  split at hs
  · cases hs
    exact State.runInv_finish h _
  · next hn =>
    obtain ⟨-, hc⟩ | ⟨-, hc⟩ := s.consult_cases <;> rw [hc] at hs
    · cases hs
      exact State.runInv_finish h _
    · dsimp only at hs
      split at hs
      · split at hs <;> cases hs
        exact hdrop
      · next d hd =>
        cases hs
        split
        · exact hdrop
        · refine State.runInv_receive hcount fun f hf => ?_
          obtain ⟨F, hF, hlen⟩ := State.decodeFrame_of_inFrame (hf ▸ hd)
          exact State.fits_of_decodeFrame hF (by rw [State.countConsultation_params]; omega)

/-- Every command, and every frame that fits the block, completes in a state that meets the invariant. -/
theorem runInv_exec {i : Instr} (hfit : i.fits s.params = true) (hs : exec i s = .next t) : t.RunInv := by
  cases i with
  | encData => exact runInv_execEncData h hs
  | encAck => cases hs; exact State.runInv_finish (State.executing_emit_encodeFrame h .ack _ 0 (Nat.zero_le _)) _
  | encEof => cases hs; exact State.runInv_finish (State.executing_emit_encodeFrame h .eof _ 0 (Nat.zero_le _)) _
  | decode => exact runInv_execDecode h hs
  | csumCompute => exact runInv_execCsumCompute h hs
  | csumValidate => exact runInv_execCsumValidate h hs
  | lossGate => exact runInv_execLossGate h hs
  | rxFrame => exact runInv_execRxFrame h hs
  | frameData q c P =>
    cases hs
    exact State.runInv_finish (State.executing_setResult h ⟨by simpa [Instr.fits] using hfit, by simp⟩) _
  | frameAck q c => cases hs; exact State.runInv_finish (State.executing_setResult h ⟨Nat.zero_le _, by simp⟩) _
  | frameEof q c => cases hs; exact State.runInv_finish (State.executing_setResult h ⟨Nat.zero_le _, by simp⟩) _

end Commands

/-- PENDING selects a command, never a frame, and a command fits every block. -/
theorem fits_of_pendingInstr {s : State} {i : Instr} (h : s.pendingInstr = some i) (p : Params) : i.fits p = true := by
  unfold State.pendingInstr decodeCommand at h
  split at h <;> cases h <;> rfl

/-! ### The turns -/

theorem inv_hostTurn {s t : State} (h : s.Inv) (hs : hostTurn s = .next t) : t.Inv := by
  obtain ⟨a, x, -, hr, rfl⟩ | ⟨g, rfl⟩ | rfl := hostTurn_cases hs
  · have hrun := State.runInv_of_inv h hr
    have hacc := State.runInv_access (s := s.evaluated) hrun a
    exact State.inv_of_runInv hacc
  · exact State.inv_of_agents h _ _ _
  · exact h

theorem inv_engineStep {s t : State} (h : s.Inv) (hb : s.phase = .busy) (hs : engineStep s = .next t) : t.Inv := by
  have hexec := State.executing_of_busy h hb
  obtain ⟨i, hi, he⟩ | ⟨-, rfl⟩ := engineStep_cases hs
  · exact State.inv_of_runInv (runInv_exec hexec (fits_of_pendingInstr hi _) he)
  · exact State.inv_of_runInv (State.runInv_finish hexec _)

/-- Every event of the total order keeps the invariant. -/
theorem inv_step {s t : State} (h : s.Inv) (hs : step s = .next t) : t.Inv := by
  have hpop := State.inv_popTurn h
  obtain ⟨-, rfl⟩ | ⟨-, hh⟩ | ⟨-, -, rfl⟩ | ⟨-, hb, he⟩ | ⟨-, rfl⟩ | ⟨-, rfl⟩ := step_cases hs
  · exact h
  · exact inv_hostTurn hpop hh
  · exact hpop
  · exact inv_engineStep hpop hb he
  · exact State.inv_assertReset hpop.1
  · exact State.inv_releaseReset hpop

/-- Settles O19: the state after reset is a block at its reset values. -/
theorem resetMeetsTheInvariant : Obligations.ResetMeetsTheInvariant :=
  ⟨fun _ => State.inv_resetWith, rfl, State.inv_resetWith (by decide)⟩

/-- Settles O20, turn by turn; the engine's turn follows each command's writes from the clear flags of a BUSY block. -/
theorem stepKeepsTheInvariant : Obligations.StepKeepsTheInvariant := fun _ _ => inv_step

/-- Settles O21, by induction on the run from reset. -/
theorem reachableStatesMeetTheInvariant : Obligations.ReachableStatesMeetTheInvariant := by
  intro p s hp hr
  induction hr with
  | start h ts => exact ⟨State.inv_of_agents (State.inv_resetWith hp) _ h ts, rfl⟩
  | step _ hs ih =>
    obtain ⟨hinv, hparams⟩ := ih
    exact ⟨inv_step hinv hs, (step_params hs).trans hparams⟩

end Machine
end Sys2Proof
end

section
/-! PROOFS. What stops a command: an octet of IN_BUF without a value, and nothing else (R44, U3). -/

namespace Sys2Proof.Machine

section Unreadable
variable {s : State} (ho : s.inOctets = none)
include ho

theorem execEncData_of_unreadable (hn : s.inCount ≤ s.params.maxPayload) :
    execEncData s = .fault .unwrittenOctet := by
  simp [execEncData, Nat.not_lt.2 hn, ho]

theorem execCsumCompute_of_unreadable (hn : s.inCount ≤ s.params.inBufSize) :
    execCsumCompute s = .fault .unwrittenOctet := by
  simp [execCsumCompute, Nat.not_lt.2 hn, ho]

theorem execCsumValidate_of_unreadable (hn : s.inCount ≤ s.params.inBufSize) :
    execCsumValidate s = .fault .unwrittenOctet := by
  simp [execCsumValidate, Nat.not_lt.2 hn, ho]

/-- A frame of 64 octets or more is read, so it is read in full or not at all. -/
theorem State.inFrame_of_unreadable (h64 : hdrLen ≤ s.inCount) : s.inFrame = none := by
  simp [State.inFrame, Nat.not_lt.2 h64, ho]

theorem execDecode_of_unreadable (hn : s.inCount ≤ s.params.inBufSize) (h64 : hdrLen ≤ s.inCount) :
    execDecode s = .fault .unwrittenOctet := by
  simp [execDecode, Nat.not_lt.2 hn, State.inFrame_of_unreadable ho h64]

theorem execRxFrame_of_unreadable (hn : s.inCount ≤ s.params.inBufSize) (h64 : hdrLen ≤ s.inCount)
    (hg : s.GateConfigured) (hd : s.gateDrops = false) : execRxFrame s = .fault .unwrittenOctet := by
  simp [execRxFrame, Nat.not_lt.2 hn, State.consult_of_configured hg, hd, State.inFrame_of_unreadable ho h64]

end Unreadable

/-- Every instruction has a meaning: none is refused. -/
theorem exec_ne_refused (i : Instr) (s : State) (r : Refusal) : exec i s ≠ .refused r := by
  intro h
  cases i with
  | encData | csumCompute | csumValidate | decode =>
    simp only [exec, execEncData, execCsumCompute, execCsumValidate, execDecode, runFrame_eq] at h
    split at h
    · cases h
    · split at h <;> cases h
  | lossGate =>
    simp only [exec, execLossGate] at h
    obtain ⟨-, hc⟩ | ⟨-, hc⟩ := s.consult_cases <;> rw [hc] at h <;> cases h
  | rxFrame =>
    simp only [exec, execRxFrame] at h
    split at h
    · cases h
    · obtain ⟨-, hc⟩ | ⟨-, hc⟩ := s.consult_cases <;> rw [hc] at h
      · cases h
      · dsimp only at h
        split at h
        · split at h <;> cases h
        · cases h
  | encAck | encEof | frameData | frameAck | frameEof => cases h

/-- Settles O29: the five reading commands one by one; the other way round, every fault is an unreadable operand. -/
theorem onlyAnOctetWithoutValueStopsACommand : Obligations.OnlyAnOctetWithoutValueStopsACommand := by
  refine ⟨fun s hk => ?_, fun i s f hf => ?_, exec_ne_refused⟩
  · have ho := State.inOctets_eq_none.2 hk
    refine ⟨execEncData_of_unreadable ho, fun hn => ?_⟩
    exact ⟨execCsumCompute_of_unreadable ho hn, execCsumValidate_of_unreadable ho hn, fun h64 =>
      ⟨execDecode_of_unreadable ho hn h64, execRxFrame_of_unreadable ho hn h64⟩⟩
  · obtain ⟨rfl, ho⟩ := exec_fault hf
    exact ⟨rfl, State.inOctets_eq_none.1 ho⟩

end Sys2Proof.Machine
end

section
/-! PROOFS. The host's side: octets of the buffers, reads, and the host's turn (spec/20_memory.md, R94). -/

namespace Sys2Proof.Machine

open Sys2Proof

namespace State

/-! ### Octets of the buffers (R61) -/

section Octets
variable {s : State} {i : Nat} {b : Byte}

theorem inRead_of_value (hi : i < s.params.inBufSize) (hb : s.inBuf.byte i = some b) : s.inRead i = (b, s) := by
  simp [inRead, hi, hb]

theorem outRead_of_value (hi : i < s.params.outBufSize) (hb : s.outBuf.byte i = some b) : s.outRead i = (b, s) := by
  simp [outRead, hi, hb]

theorem inRead_outside (hi : s.params.inBufSize ≤ i) : s.inRead i = (0x00, s) := if_neg (Nat.not_lt.2 hi)

theorem outRead_outside (hi : s.params.outBufSize ≤ i) : s.outRead i = (0x00, s) := if_neg (Nat.not_lt.2 hi)

theorem inWrite_outside (hi : s.params.inBufSize ≤ i) : s.inWrite i b = s := if_neg (Nat.not_lt.2 hi)

theorem inWrite_of_idle (hp : s.phase = .idle) (hi : i < s.params.inBufSize) :
    s.inWrite i b = { s with inBuf := s.inBuf.setByte i b } :=
  (if_pos hi).trans (whileIdle_of_idle _ hp)

theorem inWrite_of_busy (hp : s.phase = .busy) (hi : i < s.params.inBufSize) :
    s.inWrite i b = { s with wign := true } :=
  (if_pos hi).trans (whileIdle_of_busy _ hp)

/-- An octet written while IDLE is the next one read at its index. -/
theorem inRead_inWrite_self (hp : s.phase = .idle) (hi : i < s.params.inBufSize) :
    (s.inWrite i b).inRead i = (b, s.inWrite i b) := by
  apply inRead_of_value
  · rwa [inWrite_params]
  · rw [inWrite_of_idle hp hi, Memory.byte_setByte, if_pos rfl]

end Octets

/-! ### Reads (R68) -/

theorem inRead_keeps (i : Nat) (s : State) : (s.inRead i).2 = { s with fresh := (s.inRead i).2.fresh } := by
  unfold inRead
  split
  · split <;> rfl
  · rfl

theorem outRead_keeps (i : Nat) (s : State) : (s.outRead i).2 = { s with fresh := (s.outRead i).2.fresh } := by
  unfold outRead
  split
  · split <;> rfl
  · rfl

end State

/-- Settles O41: a write while IDLE by the laws of the memory, every other access by its own equation. -/
theorem bufferAccessesMoveOneOctet : Obligations.BufferAccessesMoveOneOctet := by
  intro s i b
  refine ⟨fun hp hi => ?_, State.inWrite_of_busy, State.inRead_of_value, State.outRead_of_value, fun hi => ?_,
    State.outRead_outside⟩
  · have hread := State.inRead_inWrite_self (b := b) hp hi
    rw [State.inWrite_of_idle hp hi] at hread ⊢
    exact ⟨fun j => Memory.byte_setByte _ i j b, rfl, hread, Memory.wf_setByte i b⟩
  · exact ⟨State.inRead_outside hi, State.inWrite_outside hi⟩

/-- Settles O42: a register read returns the state itself, an octet read takes at most one free value. -/
theorem readsChangeNothing : Obligations.ReadsChangeNothing := by
  intro s a ha
  cases a with
  | regRead off => rfl
  | inRead i => exact s.inRead_keeps i
  | outRead i => exact s.outRead_keeps i
  | regWrite | inWrite | outWrite => cases ha

/-! ### What the host's line asks for (R94) -/

theorem HostAgent.action_of_line {h : HostAgent} {line : Stmt} (hl : h.script[h.pc]? = some line) (k : Nat) :
    h.action k = line.action h.names k := by
  simp [HostAgent.action, hl]

theorem HostAgent.action_of_end {h : HostAgent} (he : h.script.length ≤ h.pc) (k : Nat) : h.action k = (.stop, k) := by
  simp [HostAgent.action, List.getElem?_eq_none he]

/-- Only a line `IF … GOTO l` asks for a jump to `l`. -/
theorem Stmt.eq_ifGoto_of_action {names : Names} {k l : Nat} {line : Stmt} (h : (line.action names k).1 = .goto l) :
    ∃ c, line = .ifGoto c l := by
  cases line with
  | ifGoto c m =>
    simp only [Stmt.action] at h
    split at h <;> cases h
    exact ⟨c, rfl⟩
  | regWrite | regRead | inWrite | inRead | outRead | outWrite | set | label | stop => cases h

/-- A well-formed script jumps to labels it defines. -/
theorem HostAgent.mem_labels_of_action {h : HostAgent} {k l : Nat} (hwf : scriptWellFormed h.script = true)
    (hg : (h.action k).1 = .goto l) : l ∈ scriptLabels h.script := by
  cases hl : h.script[h.pc]? with
  | none =>
    rw [HostAgent.action_of_end (List.getElem?_eq_none_iff.1 hl)] at hg
    cases hg
  | some line =>
    rw [HostAgent.action_of_line hl] at hg
    obtain ⟨c, rfl⟩ := Stmt.eq_ifGoto_of_action hg
    obtain ⟨-, hlines⟩ := Bool.and_eq_true_iff.1 hwf
    obtain ⟨-, hlabel⟩ := Bool.and_eq_true_iff.1 (List.all_eq_true.1 hlines _ (List.mem_of_getElem? hl))
    exact List.contains_iff_mem.1 hlabel

/-! ### The host's turn, action by action -/

section HostTurn
variable {s : State}

theorem hostTurn_of_access {a : Access} {x : Option Nat} (hr : s.inReset = false)
    (h : (s.host.action s.fresh).1 = .access a x) : hostTurn s = .next (s.evaluated.hostAccess a x) := by
  simp [hostTurn, h, hr]

theorem hostTurn_of_set {x v : Nat} (h : (s.host.action s.fresh).1 = .set x v) :
    hostTurn s =
      .next { s.evaluated with host := { s.host with pc := s.host.pc + 1, names := setCell s.host.names x v } } := by
  simp [hostTurn, h]

theorem hostTurn_of_goto {l k : Nat} (h : (s.host.action s.fresh).1 = .goto l)
    (hk : labelLine l s.host.script 0 = some k) :
    hostTurn s = .next { s.evaluated with host := { s.host with pc := k } } := by
  simp [hostTurn, h, hk]

theorem hostTurn_of_skip (h : (s.host.action s.fresh).1 = .skip) :
    hostTurn s = .next { s.evaluated with host := { s.host with pc := s.host.pc + 1 } } := by
  simp [hostTurn, h]

theorem hostTurn_of_stop (h : (s.host.action s.fresh).1 = .stop) : hostTurn s = .next s := by
  simp [hostTurn, h]

/-- A LABEL has no expression, so the counter of free values stays too. -/
theorem hostTurn_of_label {l : Nat} (h : s.host.script[s.host.pc]? = some (.label l)) :
    hostTurn s = .next { s with host := { s.host with pc := s.host.pc + 1 } } := by
  have ha : s.host.action s.fresh = (.skip, s.fresh) := HostAgent.action_of_line h _
  rw [hostTurn_of_skip (by rw [ha]), State.evaluated, ha]

theorem hostTurn_of_ifNotTaken {c : Expr} {l : Nat} (h : s.host.script[s.host.pc]? = some (.ifGoto c l))
    (hc : (c.eval s.host.names s.fresh).1 = 0) :
    hostTurn s = .next { s.evaluated with host := { s.host with pc := s.host.pc + 1 } } :=
  hostTurn_of_skip (by rw [HostAgent.action_of_line h]; exact if_pos hc)

/-- STOP, and a script that has run out, leave the state as it is (log entry 9). -/
theorem hostTurn_of_stopped (h : s.host.script[s.host.pc]? = some .stop ∨ s.host.script.length ≤ s.host.pc) :
    hostTurn s = .next s := by
  apply hostTurn_of_stop
  rcases h with hl | he
  · rw [HostAgent.action_of_line hl]
    rfl
  · rw [HostAgent.action_of_end he]

/-- Every line of a well-formed script completes: its GOTO has a target, and no access meets an asserted reset input. -/
theorem hostTurn_completes (hr : s.inReset = false) (hwf : scriptWellFormed s.host.script = true) :
    ∃ t, hostTurn s = .next t := by
  cases ha : (s.host.action s.fresh).1 with
  | access a x => exact ⟨_, hostTurn_of_access hr ha⟩
  | set x v => exact ⟨_, hostTurn_of_set ha⟩
  | goto l =>
    have hlabel := (labelLine_isSome l s.host.script 0).2 (HostAgent.mem_labels_of_action hwf ha)
    obtain ⟨k, hk⟩ := Option.isSome_iff_exists.1 hlabel
    exact ⟨_, hostTurn_of_goto ha hk⟩
  | skip => exact ⟨_, hostTurn_of_skip ha⟩
  | stop => exact ⟨_, hostTurn_of_stop ha⟩

end HostTurn

theorem step_of_nextTurn_host {s : State} (h : s.nextTurn = some .host) : step s = hostTurn s.popTurn := by
  simp [step, runTurn, h]

/-- Settles O43: with its turn taken from the order, the host runs its line as its action says. -/
theorem hostTurnRunsItsLine : Obligations.HostTurnRunsItsLine := by
  rintro s u hturn rfl
  rw [step_of_nextTurn_host hturn]
  exact ⟨fun a x hr ha => hostTurn_of_access (s := s.popTurn) hr ha,
    fun x v ha => hostTurn_of_set (s := s.popTurn) ha,
    fun l k ha hk => hostTurn_of_goto (s := s.popTurn) ha hk,
    fun l h => hostTurn_of_label (s := s.popTurn) h,
    fun c l h hc => hostTurn_of_ifNotTaken (s := s.popTurn) h hc,
    fun h => hostTurn_of_stopped (s := s.popTurn) h,
    fun hr hwf => hostTurn_completes (s := s.popTurn) hr hwf⟩

end Sys2Proof.Machine
end

section
/-! PROOFS. The two encodings: the opcode map and its commands, decode of encode, the header's octets, the tags
(R82, R88, R91, R142). -/

namespace Sys2Proof

/-! ### The command word (R91) -/

/-- The opcode map, read both ways: a word selects the one instruction it encodes. -/
theorem decodeCommand_eq_some_iff {w : Word} {i : Instr} : decodeCommand w = some i ↔ encode i = .command w := by
  constructor
  · intro h
    unfold decodeCommand at h
    split at h
    case h_9 => cases h
    all_goals
      next hw =>
        cases h
        exact congrArg Encoding.command (BitVec.eq_of_toNat_eq hw.symm)
  · intro h
    cases i <;> cases h <;> rfl

/-- The legal words are 1 to 8, and no other word selects a command. -/
theorem decodeCommand_isSome_iff {w : Word} : (decodeCommand w).isSome ↔ 1 ≤ w.toNat ∧ w.toNat ≤ 8 := by
  unfold decodeCommand
  constructor
  · intro h
    split at h
    case h_9 => cases h
    all_goals omega
  · rintro ⟨hlo, hhi⟩
    interval_cases w.toNat <;> rfl

theorem decode_command_eq_ok_iff {w : Word} {i : Instr} : decode (.command w) = .ok i ↔ decodeCommand w = some i := by
  simp only [decode]
  cases decodeCommand w <;> simp

/-- Settles O7: a word decodes exactly when the opcode map has it, and each of the eight is its command's encoding. -/
theorem opcodeMapIsExact : Obligations.OpcodeMapIsExact := by
  have hmap (i : Instr) (w : Word) (h : encode i = .command w) : decode (.command w) = .ok i :=
    decode_command_eq_ok_iff.2 (decodeCommand_eq_some_iff.2 h)
  refine ⟨fun w => ?_, hmap _ _ rfl, hmap _ _ rfl, hmap _ _ rfl, hmap _ _ rfl, hmap _ _ rfl, hmap _ _ rfl,
    hmap _ _ rfl, hmap _ _ rfl⟩
  simp only [decode_command_eq_ok_iff, ← Option.isSome_iff_exists, decodeCommand_isSome_iff]

/-! ### Decode of encode (R135, R142) -/

/-- The frame a decoder reads from an encoded one: ACK and EOF frames carry checksum zero and no payload (R84, R85). -/
theorem decodeFrame_encodeFrame (k : FrameKind) (s : Word) (c : Half) (P : List Byte) :
    decodeFrame (encodeFrame k s c P) =
      .ok { kind := k, seq := s, csum := if k = .data then c else 0, payload := if k = .data then P else [] } := by
  cases k with
  | data => exact decodeFrame_hdr s c .data P
  | ack => simpa [encodeFrame] using decodeFrame_hdr s 0 .ack []
  | eof => simpa [encodeFrame] using decodeFrame_hdr s 0 .eof []

theorem decode_frame_eq_ok_iff {F : List Byte} {i : Instr} :
    decode (.frame F) = .ok i ↔ ∃ f, decodeFrame F = .ok f ∧ f.toInstr = i := by
  simp only [decode]
  cases decodeFrame F <;> simp

/-- The instruction as its encoding carries it: the checksum field of an ACK or EOF frame is written as zero (R84, R135). -/
def Instr.asSent : Instr → Instr
  | .frameAck s _ => .frameAck s 0
  | .frameEof s _ => .frameEof s 0
  | i => i

theorem Instr.asSent_eq_self_iff {i : Instr} : i.asSent = i ↔ i.wellFormed = true := by
  cases i with
  | frameAck s c | frameEof s c => simpa [Instr.asSent, Instr.wellFormed] using eq_comm
  | encData | encAck | encEof | decode | csumCompute | csumValidate | lossGate | rxFrame | frameData =>
    exact iff_of_true rfl rfl

/-- What an encoding decodes to, well formed or not. -/
theorem decode_encode (i : Instr) : decode (encode i) = .ok i.asSent := by
  cases i with
  | frameData s c P => exact decode_frame_eq_ok_iff.2 ⟨_, decodeFrame_encodeFrame .data s c P, rfl⟩
  | frameAck s c => exact decode_frame_eq_ok_iff.2 ⟨_, decodeFrame_encodeFrame .ack s c [], rfl⟩
  | frameEof s c => exact decode_frame_eq_ok_iff.2 ⟨_, decodeFrame_encodeFrame .eof s c [], rfl⟩
  | encData | encAck | encEof | decode | csumCompute | csumValidate | lossGate | rxFrame =>
    exact decode_command_eq_ok_iff.2 (decodeCommand_eq_some_iff.2 rfl)

/-- Settles O6: decoding gives the instruction as sent, which is the instruction itself exactly when it is well formed. -/
theorem decodeInvertsEncode : Obligations.DecodeInvertsEncode := by
  intro i
  rw [decode_encode, Except.ok.injEq, Instr.asSent_eq_self_iff]

/-- Settles O1: R130's frame is the encoding of a DATA frame; words and tags by evaluation. -/
theorem writtenOutEncodingsDecode : Obligations.WrittenOutEncodingsDecode :=
  ⟨decode_encode .encData, decode_encode .lossGate, rfl, decode_encode (.frameData 5 0xBEBD [0x41, 0x42]), rfl, rfl⟩

/-! ### The header's octets (R82) -/

section Header
variable (s : Word) (c T : Half) {j : Nat}

theorem getElem?_hdr_seq (h : j < 32) : (hdr s c T)[j]? = (digits s)[j]? := by
  rw [hdr, List.append_assoc, List.getElem?_append_left (by simpa)]

theorem getElem?_hdr_csum (h : j < 16) : (hdr s c T)[32 + j]? = (digits c)[j]? := by
  rw [hdr, List.append_assoc, List.getElem?_append_right (by simp), List.getElem?_append_left (by simpa)]
  simp

theorem getElem?_hdr_tag (j : Nat) : (hdr s c T)[48 + j]? = (digits T)[j]? := by
  rw [hdr, List.getElem?_append_right (by simp)]
  simp

end Header

/-- The value of digit octets as the sum R82 writes. -/
theorem fieldValue_eq_sum (A : List Byte) :
    fieldValue A = ∑ j ∈ Finset.range A.length, digit (A[j]?.getD 0) * 2 ^ (A.length - 1 - j) := by
  induction A with
  | nil => rfl
  | cons b rest ih =>
    rw [fieldValue, ih, List.length_cons, Finset.sum_range_succ']
    have hexp (j : Nat) : rest.length - 1 - j = rest.length - (j + 1) := by omega
    simp [hexp, add_comm]

/-- The weighted digit sum of a value's digits is the value. -/
theorem toNat_eq_sum_digits {w : Nat} (v : BitVec w) :
    v.toNat = ∑ j ∈ Finset.range w, digit ((digits v)[j]?.getD 0) * 2 ^ (w - 1 - j) := by
  have h := fieldValue_eq_sum (digits v)
  rwa [fieldValue_digits, length_digits] at h

/-- Settles O2: each field of the header stands at its place, and its digits spell it. -/
theorem headerPlacesEveryBit : Obligations.HeaderPlacesEveryBit := by
  intro s c T
  refine ⟨length_hdr s c T, fun j hj => ?_, fun j hj => ?_, fun j hj => ?_, ?_, ?_⟩
  · rw [getElem?_hdr_seq s c T hj]
    exact getElem?_digits s hj
  · rw [getElem?_hdr_csum s c T hj]
    exact getElem?_digits c hj
  · rw [getElem?_hdr_tag s c T j]
    exact getElem?_digits T hj
  · rw [toNat_eq_sum_digits s]
    exact Finset.sum_congr rfl fun j hj => by rw [getElem?_hdr_seq s c T (Finset.mem_range.1 hj)]
  · rw [toNat_eq_sum_digits c]
    exact Finset.sum_congr rfl fun j hj => by rw [getElem?_hdr_csum s c T (Finset.mem_range.1 hj)]

/-! ### The tags (R88) -/

theorem octetsChanged_tags {k l : FrameKind} (h : k ≠ l) : 8 ≤ Machine.octetsChanged k.tag l.tag := by
  revert h
  cases k <;> cases l <;> decide

/-- Settles O8: octets that are a tag are a tag at distance 8 or more from the others. -/
theorem tagsAreFarApart : Obligations.TagsAreFarApart := by
  refine ⟨by decide, by decide, by decide, fun k T _ hne hlt => ?_⟩
  cases hc : classifyTag T with
  | none => rfl
  | some l =>
    obtain rfl := tag_of_classifyTag hc
    have hfar := octetsChanged_tags fun hl : l = k => hne (congrArg FrameKind.tag hl)
    omega

namespace Machine

/-! ### A command word through acceptance (R112, R114) -/

/-- Acceptance latches exactly the legal words. -/
theorem acceptable_iff {w : Word} :
    (w.extractLsb' 4 28 = 0 ∧ 1 ≤ (w.setWidth 4).toNat ∧ (w.setWidth 4).toNat ≤ 8) ↔
      1 ≤ w.toNat ∧ w.toNat ≤ 8 := by
  have hw := w.isLt
  rw [← BitVec.toNat_inj, BitVec.extractLsb'_toNat, BitVec.toNat_setWidth, Nat.shiftRight_eq_div_pow]
  simp only [BitVec.ofNat_eq_ofNat, BitVec.toNat_ofNat]
  omega

/-- After acceptance PENDING selects the command of the written word; none for an illegal one. -/
theorem State.pendingInstr_accept (w : Word) (s : State) : (s.accept w).pendingInstr = decodeCommand w := by
  rw [State.pendingInstr, State.accept_pending]
  by_cases h : 1 ≤ w.toNat ∧ w.toNat ≤ 8
  · rw [if_pos (acceptable_iff.2 h)]
    congr 1
    apply BitVec.eq_of_toNat_eq
    simp only [BitVec.toNat_setWidth]
    omega
  · rw [if_neg (mt acceptable_iff.1 h)]
    have hnone : decodeCommand w = none := by simpa using mt decodeCommand_isSome_iff.1 h
    rw [hnone]
    rfl

theorem State.regWrite_cmd_of_idle {s : State} (h : s.phase = .idle) (w : Word) : s.regWrite 0x00 w = s.accept w :=
  (State.regWrite_offset .cmd w s).trans (State.whileIdle_of_idle _ h)

theorem engineStep_of_pendingInstr {s : State} {i : Instr} (h : s.pendingInstr = some i) : engineStep s = exec i s := by
  simp [engineStep, h]

/-- Settles O25: the accepted word selects the instruction it encodes. -/
theorem legalWordsRunTheirCommand : Obligations.LegalWordsRunTheirCommand := by
  intro s i w hidle hw
  rw [State.regWrite_cmd_of_idle hidle]
  have hp : (s.accept w).pendingInstr = some i :=
    (State.pendingInstr_accept w s).trans (decodeCommand_eq_some_iff.2 hw)
  exact ⟨State.accept_phase w s, engineStep_of_pendingInstr hp⟩

/-! ### DECODE of a frame (R140) -/

theorem exec_toInstr (f : Frame) (s : State) : exec f.toInstr s = runFrame f s := by
  obtain ⟨k, q, c, P⟩ := f
  cases k <;> rfl

/-- DECODE runs the instruction that the frame in IN_BUF decodes to. -/
theorem exec_decode_of_frame {s : State} {F : List Byte} {i : Instr} (hn : s.inCount ≤ s.params.inBufSize)
    (hF : s.inBuf.bytes 0 s.inLen.toNat = some F) (hi : decode (.frame F) = .ok i) : exec .decode s = exec i s := by
  obtain ⟨f, hf, rfl⟩ := decode_frame_eq_ok_iff.1 hi
  have hframe : s.inFrame = some (.ok f) := hf ▸ State.inFrame_of_bytes hF
  rw [exec_toInstr]
  simp [exec, execDecode, Nat.not_lt.2 hn, hframe]

/-- A frame that fits the block is no longer than IN_BUF (R7, R80). -/
theorem length_le_inBufSize_of_encode {p : Params} {i : Instr} {F : List Byte} (hfit : i.fits p = true)
    (hF : encode i = .frame F) : F.length ≤ p.inBufSize := by
  cases i <;> cases hF
  case frameData s c P => exact (Laws.EncodingFits.frameData s c P p hfit).2
  case frameAck s c => exact (Laws.EncodingFits.frameAck s c p hfit).2
  case frameEof s c => exact (Laws.EncodingFits.frameEof s c p hfit).2

/-- Settles O50: the frame decodes to the instruction it encodes, and DECODE runs that. -/
theorem decodeRunsTheEncodedFrame : Obligations.DecodeRunsTheEncodedFrame := by
  intro s i F hwf hfit hF hlen hbytes
  have hdecode : decode (.frame F) = .ok i := hF ▸ (decodeInvertsEncode i).2 hwf
  have hn : s.inCount ≤ s.params.inBufSize := hlen.trans_le (length_le_inBufSize_of_encode hfit hF)
  exact exec_decode_of_frame hn (hlen ▸ hbytes) hdecode

end Machine
end Sys2Proof
end

section
/-! PROOFS. The lifecycle of a command: acceptance, the engine's step, completion, and the host's accesses meanwhile
(spec/40_command.md). -/

namespace Sys2Proof.Machine

/-! ### Acceptance (R112 to R114) -/

/-- Settles O23: an IDLE block accepts the word, and the word's low four bits are its OP field. -/
theorem commandWriteIsAccepted : Obligations.CommandWriteIsAccepted := by
  intro s w hidle
  rw [State.regWrite_cmd_of_idle hidle, ← BitVec.setWidth_eq_extractLsb' (by omega)]
  rfl

/-- A word that is no command latches 0 (R113). -/
theorem State.accept_of_illegal {w : Word} (h : w.toNat = 0 ∨ 8 < w.toNat) (s : State) :
    (s.accept w).pending = 0 ∧ (s.accept w).pendingInstr = none := by
  have hw : ¬(1 ≤ w.toNat ∧ w.toNat ≤ 8) := by omega
  constructor
  · rw [State.accept_pending, if_neg (mt acceptable_iff.1 hw)]
  · rw [State.pendingInstr_accept]
    simpa using mt decodeCommand_isSome_iff.1 hw

theorem engineStep_of_illegal {s : State} (h : s.pendingInstr = none) :
    engineStep s = .next (s.finish .illegalCommand) := by
  simp [engineStep, h]

/-- Settles O24: the latched 0 selects no command, and the step writes the error and nothing else. -/
theorem illegalWordsEndWithIllegalCommand : Obligations.IllegalWordsEndWithIllegalCommand := by
  intro s w hidle hw
  obtain ⟨hpending, hnone⟩ := s.accept_of_illegal hw
  rw [State.regWrite_cmd_of_idle hidle, engineStep_of_illegal hnone, ← hpending]
  exact ⟨rfl, rfl, rfl⟩

/-! ### The engine's step (R110, R115) -/

section EngineTurn
variable {s : State} (hn : s.nextTurn = some .engine)
include hn

theorem step_of_idle_engine (hp : s.phase = .idle) : step s = .next s.popTurn := by
  simp [step, runTurn, hn, engineTurn, hp]

theorem step_of_busy_engine (hp : s.phase = .busy) : step s = engineStep s.popTurn := by
  simp [step, runTurn, hn, engineTurn, hp]

end EngineTurn

/-- Settles O26: PENDING selects the decoded command, and DECODE runs the frame that IN_BUF holds. -/
theorem stepRunsTheDecodedInstruction : Obligations.StepRunsTheDecodedInstruction := by
  intro s hn hb
  have hcommand (i : Instr) (hi : decode (.command (s.pending.setWidth 32)) = .ok i) : step s = exec i s.popTurn :=
    (step_of_busy_engine hn hb).trans (engineStep_of_pendingInstr (decode_command_eq_ok_iff.1 hi))
  refine ⟨hcommand, fun i F hpending hlen hF hi => ?_⟩
  have hdecode : step s = exec .decode s.popTurn := hcommand .decode (by rw [hpending]; rfl)
  exact hdecode.trans (exec_decode_of_frame (s := s.popTurn) hlen hF hi)

/-! ### Completion (R115) -/

/-- No instruction stops when every octet below IN_LEN holds a value. -/
theorem exec_completes (i : Instr) {s : State} (hv : ∀ k < s.inLen.toNat, (s.inBuf.byte k).isSome) :
    ∃ t, exec i s = .next t := by
  cases he : exec i s with
  | next t => exact ⟨t, rfl⟩
  | fault f =>
    obtain ⟨-, ho⟩ := exec_fault he
    obtain ⟨k, hk, hnone⟩ := State.inOctets_eq_none.1 ho
    simpa [hnone] using hv k hk
  | refused r => exact absurd he (exec_ne_refused i s r)

/-- Settles O28: an instruction that gives a next state has completed. -/
theorem everyInstructionCompletes : Obligations.EveryInstructionCompletes := by
  intro i s hv
  obtain ⟨t, ht⟩ := exec_completes i hv
  exact ⟨t, ht, (completes_of_exec ht).idle, (completes_of_exec ht).done⟩

/-- The engine's step answers whatever PENDING holds; an illegal one reads no octet. -/
theorem engineStep_completes {s : State} (hv : ∀ k < s.inLen.toNat, (s.inBuf.byte k).isSome) :
    ∃ t, engineStep s = .next t := by
  cases hp : s.pendingInstr with
  | none => exact ⟨_, engineStep_of_illegal hp⟩
  | some i =>
    obtain ⟨t, ht⟩ := exec_completes i hv
    exact ⟨t, (engineStep_of_pendingInstr hp).trans ht⟩

theorem completes_of_engineStep {s t : State} (h : engineStep s = .next t) : Completes s t := by
  obtain ⟨i, -, hi⟩ | ⟨-, rfl⟩ := engineStep_cases h
  · exact completes_of_exec hi
  · exact completes_finish _ (keeps_refl s)

/-- Settles O27: the engine's step completes, and STATUS shows it. -/
theorem engineStepCompletes : Obligations.EngineStepCompletes := by
  intro s hn
  refine ⟨step_of_idle_engine hn, fun hb hv => ?_, fun t hb ht => ?_⟩
  · rw [step_of_busy_engine hn hb]
    exact engineStep_completes (s := s.popTurn) hv
  · rw [step_of_busy_engine hn hb] at ht
    have hc := completes_of_engineStep ht
    rw [State.regRead_status, State.getLsbD_statusWord, State.getLsbD_statusWord]
    exact ⟨hc.idle, hc.done, hc.turns, by simp [State.busy, hc.idle], hc.done⟩

/-- Settles O35, by induction on the host turns laid down: each leaves a block whose host has finished as it is. -/
theorem busyBlockCompletes : Obligations.BusyBlockCompletes := by
  intro n
  induction n with
  | zero =>
    intro s hb hr hturns _ hv
    have hn : s.nextTurn = some .engine := by simp [State.nextTurn, hturns, hr, State.busy, hb]
    obtain ⟨t, ht⟩ := engineStep_completes (s := s.popTurn) hv
    have hc := completes_of_engineStep ht
    exact ⟨t, run_next (M := core) ((step_of_busy_engine hn hb).trans ht), hc.idle, hc.done⟩
  | succ n ih =>
    intro s hb hr hturns hend hv
    have hn : s.nextTurn = some .host := by simp [State.nextTurn, hturns, List.replicate_succ]
    have hstep : step s = .next s.popTurn :=
      (step_of_nextTurn_host hn).trans (hostTurn_of_stopped (s := s.popTurn) (.inr hend))
    have hrest : s.popTurn.turns = List.replicate n .host := by simp [hturns]
    rw [run_next (M := core) hstep]
    exact ih s.popTurn hb hr hrest hend hv

/-! ### The host's accesses while BUSY (R117 to R119) -/

namespace State

theorem writeReg_of_busy {s : State} {r : Reg} (v : Word) (hb : s.phase = .busy) (hr : r = .cmd ∨ r ∈ storingRegs) :
    s.writeReg r v = { s with wign := true } := by
  rw [mem_storingRegs] at hr
  obtain rfl | rfl | rfl | rfl | rfl | rfl | rfl | rfl := hr <;> exact whileIdle_of_busy _ hb

theorem writeReg_of_readOnly {r : Reg} (v : Word) (s : State) (hr : r ∈ readOnlyRegs) : s.writeReg r v = s := by
  cases r with
  | outLen | resSeq | resCsum | resKind | resPlen | paramMaxpl | paramWrand => rfl
  | cmd | status | argSeq | argCsum | inLen | lossMode | lossThresh | lossPeriod | lossCount =>
    simp [readOnlyRegs] at hr

/-- Any accesses while BUSY change nothing but WIGN and the model's counter of free values. -/
theorem accessAll_of_busy {s : State} (as : List Access) (hb : s.phase = .busy) :
    ∃ w f, s.accessAll as = { s with wign := w, fresh := f } := by
  induction as generalizing s with
  | nil => exact ⟨s.wign, s.fresh, rfl⟩
  | cons a as ih =>
    have ha := access_of_busy a hb
    obtain ⟨w, f, hrest⟩ := ih (s := (s.access a).2) (by rw [ha]; exact hb)
    exact ⟨w, f, hrest.trans (congrArg (fun u : State => { u with wign := w, fresh := f }) ha)⟩

/-- From acceptance to completion STATUS shows BUSY and WIGN alone (R118). -/
theorem statusWord_of_busy {s : State} (hb : s.phase = .busy) (hc : s.BusyIsClean) :
    s.statusWord = if s.wign then 0x00000005 else 0x00000001 := by
  obtain ⟨hdone, hvalid, hdrop, herr, -⟩ := hc hb
  simp only [statusWord, busy, hb, hdone, hvalid, hdrop, herr]
  cases s.wign <;> rfl

end State

/-- Settles O40: every write by the equation of its register or buffer. -/
theorem lostWritesSetWign : Obligations.LostWritesSetWign := by
  refine ⟨fun s r v hb hr => ?_, fun s i b hb hi => State.inWrite_of_busy hb hi, fun s r v hr => ?_,
    fun s i b => ⟨State.inWrite_outside, rfl⟩⟩
  · exact (State.regWrite_offset r v s).trans (State.writeReg_of_busy v hb hr)
  · exact (State.regWrite_offset r v s).trans (State.writeReg_of_readOnly v s hr)

/-- Settles O33: the accesses leave a BUSY block with the flags it had. -/
theorem busyHidesTheCommand : Obligations.BusyHidesTheCommand := by
  intro s as hb
  obtain ⟨w, f, h⟩ := State.accessAll_of_busy as hb
  rw [h]
  exact ⟨rfl, fun hc => State.statusWord_of_busy (s := { s with wign := w, fresh := f }) hb hc⟩

end Sys2Proof.Machine
end

section
/-! PROOFS. What a command writes, as data: the frames of the commands, their determinism, and their blindness to host
accesses (R120, R121, R74). -/

namespace Sys2Proof.Machine

/-! ### The writes of a command

A command that completes makes a few of the shared writes of results and ends with an error code. Which ones it makes is read
off its operands alone, so in two states with the same operands it follows one plan. -/

/-- One of the shared writes of results. -/
inductive Write where
  | emit (F : List Byte)
  | setResult (f : Frame)
  | clearResult
  | setResCsum (c : Half)
  | setValid
  | setDrop (d : Bool)
  | count (c : Word)

namespace Write

/-- The model's operation that a write stands for. -/
def apply : Write → State → State
  | .emit F => State.emit F
  | .setResult f => State.setResult f
  | .clearResult => State.clearResult
  | .setResCsum c => State.setResCsum c
  | .setValid => State.setValid
  | .setDrop d => State.setDrop d
  | .count c => State.countConsultation c

/-- The registers a write stores into, besides STATUS. -/
def regs : Write → List Reg
  | .emit _ => [.outLen]
  | .setResult _ | .clearResult => [.resKind, .resSeq, .resCsum, .resPlen]
  | .setResCsum _ => [.resCsum]
  | .setValid | .setDrop _ => []
  | .count _ => [.lossCount]

/-- A register that a write stores into shows a value that the write alone decides. -/
theorem readReg_apply_of_mem {w : Write} {r : Reg} (h : r ∈ w.regs) (s t : State) :
    (w.apply s).readReg r = (w.apply t).readReg r := by
  cases w <;> simp only [regs, List.mem_cons, List.not_mem_nil, or_false] at h
  case emit | setResCsum | count => subst h; rfl
  case setResult | clearResult => obtain rfl | rfl | rfl | rfl := h <;> rfl

theorem readReg_apply_of_not_mem {w : Write} {r : Reg} (h : r ∉ w.regs) (hr : r ≠ .status) (s : State) :
    (w.apply s).readReg r = s.readReg r := by
  cases w with
  | emit =>
    cases r with
    | status => exact absurd rfl hr
    | outLen => simp [regs] at h
    | _ => rfl
  | setResult | clearResult =>
    cases r with
    | status => exact absurd rfl hr
    | resKind | resSeq | resCsum | resPlen => simp [regs] at h
    | _ => rfl
  | setResCsum =>
    cases r with
    | status => exact absurd rfl hr
    | resCsum => simp [regs] at h
    | _ => rfl
  | setValid | setDrop =>
    cases r with
    | status => exact absurd rfl hr
    | _ => rfl
  | count =>
    cases r with
    | status => exact absurd rfl hr
    | lossCount => simp [regs] at h
    | _ => rfl

/-- The writes an instruction may make: into registers of its list (R120), into OUT_BUF as an encoder (R41), into VALID and
DROP where R45 names them, and of the gate's count when it consults the gate (R184). -/
def Allowed (i : Instr) (s : State) : Write → Prop
  | .emit _ => i = .encData ∨ i = .encAck ∨ i = .encEof
  | .setResult _ | .clearResult => [.resKind, .resSeq, .resCsum, .resPlen] ⊆ writtenRegs i
  | .setResCsum _ => .resCsum ∈ writtenRegs i
  | .setValid => i = .csumValidate ∨ i = .rxFrame
  | .setDrop _ => i = .lossGate ∨ i = .rxFrame
  | .count _ => Consults i s

theorem Allowed.regs_subset {i : Instr} {s : State} {w : Write} (h : w.Allowed i s) : w.regs ⊆ writtenRegs i := by
  cases w with
  | emit => obtain rfl | rfl | rfl := h <;> simp [regs, writtenRegs]
  | setResult | clearResult => exact h
  | setResCsum => exact List.cons_subset.2 ⟨h, List.nil_subset _⟩
  | setValid | setDrop => simp [regs]
  | count => obtain ⟨-, rfl | ⟨rfl, -⟩⟩ := h <;> simp [regs, writtenRegs]

end Write

/-- The writes one after another. -/
def writeAll (ws : List Write) (s : State) : State := ws.foldl (fun u w => w.apply u) s

/-- What a command does once its operands are read: its writes and the error code it ends with; none is a stop on an octet
without value. -/
def runPlan : Option (List Write × ErrCode) → State → Host.Outcome State Fault Refusal
  | none, _ => .fault .unwrittenOctet
  | some (ws, e), s => .next ((writeAll ws s).finish e)

/-- One plan, made of writes the instruction is allowed, takes `s` to `o` and `t` to `o'`. -/
def SamePlan (i : Instr) (s t : State) (o o' : Host.Outcome State Fault Refusal) : Prop :=
  ∃ p, o = runPlan p s ∧ o' = runPlan p t ∧ ∀ ws e, p = some (ws, e) → ∀ w ∈ ws, w.Allowed i s

section Plans
variable {i : Instr} {s t : State}

theorem samePlan_fault : SamePlan i s t (.fault .unwrittenOctet) (.fault .unwrittenOctet) := ⟨none, rfl, rfl, nofun⟩

theorem samePlan_next (ws : List Write) (e : ErrCode) (h : ∀ w ∈ ws, w.Allowed i s) :
    SamePlan i s t (.next ((writeAll ws s).finish e)) (.next ((writeAll ws t).finish e)) :=
  ⟨some (ws, e), rfl, rfl, by rintro _ _ ⟨⟩; exact h⟩

end Plans

/-! ### The operands of two states -/

namespace State

section Operands
variable {s t : State}

theorem SameInput.inCount_eq (h : SameInput s t) : t.inCount = s.inCount := congrArg BitVec.toNat h.1.symm

theorem SameInput.inOctets_eq (h : SameInput s t) : t.inOctets = s.inOctets := by
  rw [inOctets, inOctets, h.inCount_eq]
  exact Memory.bytes_congr fun j _ hj => (h.2 j (by simpa [inCount] using hj)).symm

theorem SameInput.inFrame_eq (h : SameInput s t) : t.inFrame = s.inFrame := by
  rw [inFrame, inFrame, h.inCount_eq, h.inOctets_eq]

theorem SameGate.gateDrops_eq (h : SameGate s t) : t.gateDrops = s.gateDrops := by
  obtain ⟨hmode, hthresh, hperiod, hcount, hdraw⟩ := h
  unfold gateDrops
  rw [← hmode, ← hthresh, ← hperiod, ← hcount]
  split
  · next h0 => rw [hdraw h0]
  · rfl

/-- The same gate operands give the same verdict and the same count. -/
theorem SameGate.consult_cases (hp : s.params = t.params) (h : SameGate s t) :
    (s.consult = none ∧ t.consult = none) ∨
      (s.GateConfigured ∧ s.consult = some (s.gateDrops, s.countConsultation (s.lossCount + 1)) ∧
        t.consult = some (s.gateDrops, t.countConsultation (s.lossCount + 1))) := by
  have hdrops := h.gateDrops_eq
  obtain ⟨hmode, hthresh, hperiod, hcount, -⟩ := h
  have hcfg : t.GateConfigured ↔ s.GateConfigured := by
    simp only [GateConfigured, hp, hmode, hthresh, hperiod]
  obtain ⟨hn, hs⟩ | ⟨hg, hs⟩ := s.consult_cases
  · exact .inl ⟨hs, consult_of_not_configured (mt hcfg.1 hn)⟩
  · refine .inr ⟨hg, hs, ?_⟩
    rw [consult_of_configured (hcfg.2 hg), hdrops, hcount]

end Operands

theorem sameOperands_refl (i : Instr) (s : State) : SameOperands i s s := by
  cases i <;> simp [SameOperands, SameInput, SameGate]

end State

/-! ### The plan of each instruction -/

/-- What RX_FRAME does with a decode is a plan that the decode alone decides. -/
theorem receive_eq_plan (d : Except FrameError Frame) :
    ∃ ws e, (∀ u : State, u.receive d = (writeAll ws u).finish e) ∧ ∀ s, ∀ w ∈ ws, w.Allowed .rxFrame s := by
  cases d with
  | error e => exact ⟨[.clearResult], e.errCode, fun _ => rfl, by simp [Write.Allowed, writtenRegs]⟩
  | ok f =>
    have hset : ∀ s, Write.Allowed .rxFrame s (.setResult f) := by simp [Write.Allowed, writtenRegs]
    obtain ⟨k, q, c, P⟩ := f
    cases k with
    | data =>
      by_cases hv : validateChecksum P c = true
      · exact ⟨[.setResult _, .setValid], .none, fun _ => if_pos hv, by simp [Write.Allowed, writtenRegs]⟩
      · exact ⟨[.setResult _], .corruptedSegment, fun _ => if_neg hv, by simpa using hset⟩
    | ack | eof => exact ⟨[.setResult _], .none, fun _ => rfl, by simpa using hset⟩

section Commands
variable {s t : State}

theorem samePlan_encData (h : State.SameOperands .encData s t) :
    SamePlan .encData s t (execEncData s) (execEncData t) := by
  obtain ⟨hp, hseq, hcsum, hin⟩ := h
  simp only [execEncData, hin.inCount_eq, hin.inOctets_eq, ← hp, ← hseq, ← hcsum]
  split
  · exact samePlan_next [] .lengthError nofun
  · cases s.inOctets with
    | none => exact samePlan_fault
    | some P => exact samePlan_next [.emit _] .none (by simp [Write.Allowed])

theorem samePlan_decode (h : State.SameOperands .decode s t) : SamePlan .decode s t (execDecode s) (execDecode t) := by
  obtain ⟨hp, hin⟩ := h
  simp only [execDecode, hin.inCount_eq, hin.inFrame_eq, ← hp]
  split
  · exact samePlan_next [] .lengthError nofun
  · cases s.inFrame with
    | none => exact samePlan_fault
    | some d =>
      cases d with
      | error e => exact samePlan_next [.clearResult] e.errCode (by simp [Write.Allowed, writtenRegs])
      | ok f =>
        simp only [runFrame_eq]
        exact samePlan_next [.setResult _] .none (by simp [Write.Allowed, writtenRegs])

theorem samePlan_csumCompute (h : State.SameOperands .csumCompute s t) :
    SamePlan .csumCompute s t (execCsumCompute s) (execCsumCompute t) := by
  obtain ⟨hp, hin⟩ := h
  simp only [execCsumCompute, hin.inCount_eq, hin.inOctets_eq, ← hp]
  split
  · exact samePlan_next [] .lengthError nofun
  · cases s.inOctets with
    | none => exact samePlan_fault
    | some P => exact samePlan_next [.setResCsum _] .none (by simp [Write.Allowed, writtenRegs])

theorem samePlan_csumValidate (h : State.SameOperands .csumValidate s t) :
    SamePlan .csumValidate s t (execCsumValidate s) (execCsumValidate t) := by
  obtain ⟨hp, hcsum, hin⟩ := h
  simp only [execCsumValidate, hin.inCount_eq, hin.inOctets_eq, ← hp, ← hcsum]
  split
  · exact samePlan_next [] .lengthError nofun
  · cases s.inOctets with
    | none => exact samePlan_fault
    | some P =>
      by_cases hv : validateChecksum P s.argCsum = true
      · simp only [hv, if_true]
        exact samePlan_next [.setResCsum _, .setValid] .none (by simp [Write.Allowed, writtenRegs])
      · simp only [hv]
        exact samePlan_next [.setResCsum _] .corruptedSegment (by simp [Write.Allowed, writtenRegs])

theorem samePlan_lossGate (h : State.SameOperands .lossGate s t) :
    SamePlan .lossGate s t (execLossGate s) (execLossGate t) := by
  obtain ⟨hp, hg⟩ := h
  unfold execLossGate
  obtain ⟨hs, ht⟩ | ⟨hcfg, hs, ht⟩ := hg.consult_cases hp <;> rw [hs, ht]
  · exact samePlan_next [] .invalidConfiguration nofun
  · exact samePlan_next [.count _, .setDrop _] .none (by simp [Write.Allowed, Consults, hcfg])

theorem samePlan_rxFrame (h : State.SameOperands .rxFrame s t) :
    SamePlan .rxFrame s t (execRxFrame s) (execRxFrame t) := by
  obtain ⟨hp, hg, hin⟩ := h
  simp only [execRxFrame, hin.inCount_eq, hin.inFrame_eq, ← hp]
  split
  · exact samePlan_next [] .lengthError nofun
  · next hn =>
    obtain ⟨hs, ht⟩ | ⟨hcfg, hs, ht⟩ := hg.consult_cases hp <;> rw [hs, ht]
    · exact samePlan_next [] .invalidConfiguration nofun
    · have hconsults : Consults .rxFrame s := ⟨hcfg, .inr ⟨rfl, Nat.not_lt.1 hn⟩⟩
      cases s.gateDrops with
      | true =>
        cases s.inFrame <;>
          exact samePlan_next [.count _, .clearResult, .setDrop true] .none
            (by simp [Write.Allowed, writtenRegs, hconsults])
      | false =>
        cases s.inFrame with
        | none => exact samePlan_fault
        | some d =>
          obtain ⟨ws, e, hreceive, hws⟩ := receive_eq_plan d
          simp only [hreceive]
          exact samePlan_next (.count _ :: ws) e (List.forall_mem_cons.2 ⟨hconsults, hws s⟩)

end Commands

/-- In two states with the same operands an instruction follows one plan. -/
theorem samePlan_exec {i : Instr} {s t : State} (h : State.SameOperands i s t) :
    SamePlan i s t (exec i s) (exec i t) := by
  cases i with
  | encData => exact samePlan_encData h
  | encAck | encEof =>
    obtain ⟨-, hseq⟩ := h
    simp only [exec, execEncAck, execEncEof, ← hseq]
    exact samePlan_next [.emit _] .none (by simp [Write.Allowed])
  | decode => exact samePlan_decode h
  | csumCompute => exact samePlan_csumCompute h
  | csumValidate => exact samePlan_csumValidate h
  | lossGate => exact samePlan_lossGate h
  | rxFrame => exact samePlan_rxFrame h
  | frameData | frameAck | frameEof =>
    exact samePlan_next [.setResult _] .none (by simp [Write.Allowed, writtenRegs])

/-! ### The encoders (R120, R130 to R132) -/

/-- An encoder that gives a next state has refused an over-long payload or stored its frame. -/
theorem exec_encoder_cases {i : Instr} {s t : State} (hi : i = .encData ∨ i = .encAck ∨ i = .encEof)
    (h : exec i s = .next t) :
    t = s.finish .lengthError ∨ t = (s.emit (storedFrame i s)).finish .none := by
  obtain rfl | rfl | rfl := hi
  · simp only [exec, execEncData] at h
    split at h
    · cases h
      exact .inl rfl
    · next hn =>
      split at h <;> cases h
      next P ho => exact .inr (by simp [storedFrame, hn, ho])
  · cases h
    exact .inr rfl
  · cases h
    exact .inr rfl

theorem State.readReg_finish {r : Reg} (hr : r ≠ .status) (e : ErrCode) (s : State) :
    (s.finish e).readReg r = s.readReg r := by
  cases r with
  | status => exact absurd rfl hr
  | _ => rfl

/-- Settles O30: what no command writes, and what neither exit of an encoder does. -/
theorem encodersChangeOnlyTheOutput : Obligations.EncodersChangeOnlyTheOutput := by
  intro i s t hi h
  have hk := (completes_of_exec h).toKeeps
  suffices hrest : (∀ r : Reg, r ≠ .outLen → r ≠ .status → t.readReg r = s.readReg r) ∧
      (t.errcode = .lengthError → t.outLen = s.outLen) ∧ t.valid = s.valid ∧ t.drop = s.drop ∧
      (∀ a, (storedFrame i s).length ≤ a → t.outBuf.byte a = s.outBuf.byte a) ∧ t.draws = s.draws by
    obtain ⟨hreg, hlen, hvalid, hdrop, hout, hdraws⟩ := hrest
    exact ⟨hreg, hlen, hk.wign, hvalid, hdrop, fun a => by rw [hk.inBuf], hout, hk.params, hk.pending, hk.inReset,
      hdraws, hk.fresh, hk.host, hk.turns⟩
  obtain rfl | rfl := exec_encoder_cases hi h
  · exact ⟨fun r _ hr => State.readReg_finish hr _ s, fun _ => rfl, rfl, rfl, fun _ _ => rfl, rfl⟩
  · refine ⟨fun r hout hr => ?_, nofun, rfl, rfl, fun a ha => ?_, rfl⟩
    · rw [State.readReg_finish hr]
      exact Write.readReg_apply_of_not_mem (w := .emit _) (by simpa [Write.regs] using hout) hr s
    · simp [Memory.byte_setBytes, Nat.not_lt.2 ha]

/-! ### The instructions that store no octet (R45, R120) -/

/-- What the instruction leaves as it was, of the state that some command writes. -/
structure LeavesRest (i : Instr) (s t : State) : Prop where
  regs : ∀ r, r ∉ writtenRegs i → t.readReg r = s.readReg r
  valid : i ≠ .csumValidate → i ≠ .rxFrame → t.valid = s.valid
  drop : i ≠ .lossGate → i ≠ .rxFrame → t.drop = s.drop
  outBuf : t.outBuf = s.outBuf
  draws : ¬Consults i s → t.draws = s.draws

theorem leavesRest_refl (i : Instr) (s : State) : LeavesRest i s s :=
  ⟨fun _ _ => rfl, fun _ _ => rfl, fun _ _ => rfl, rfl, fun _ => rfl⟩

theorem status_mem_writtenRegs (i : Instr) : .status ∈ writtenRegs i := by cases i <;> simp [writtenRegs]

section LeavesRest
variable {i : Instr} {s u : State} (h : LeavesRest i s u)
include h

theorem leavesRest_finish (e : ErrCode) : LeavesRest i s (u.finish e) where
  regs r hr := (State.readReg_finish (by rintro rfl; exact hr (status_mem_writtenRegs i)) e u).trans (h.regs r hr)
  valid := h.valid
  drop := h.drop
  outBuf := h.outBuf
  draws := h.draws

theorem leavesRest_apply {w : Write} (hi : ¬(i = .encData ∨ i = .encAck ∨ i = .encEof)) (hw : w.Allowed i s) :
    LeavesRest i s (w.apply u) := by
  have hregs (r : Reg) (hr : r ∉ writtenRegs i) : (w.apply u).readReg r = s.readReg r :=
    (Write.readReg_apply_of_not_mem (fun hm => hr (hw.regs_subset hm))
      (by rintro rfl; exact hr (status_mem_writtenRegs i)) u).trans (h.regs r hr)
  cases w with
  | emit => exact absurd hw hi
  | setResult | clearResult | setResCsum => exact { h with regs := hregs }
  | setValid => exact { h with regs := hregs, valid := fun hv hx => absurd hw (by simp [Write.Allowed, hv, hx]) }
  | setDrop => exact { h with regs := hregs, drop := fun hl hx => absurd hw (by simp [Write.Allowed, hl, hx]) }
  | count => exact { h with regs := hregs, draws := fun hc => absurd hw hc }

end LeavesRest

theorem leavesRest_exec {i : Instr} {s t : State} (hi : ¬(i = .encData ∨ i = .encAck ∨ i = .encEof))
    (h : exec i s = .next t) : LeavesRest i s t := by
  obtain ⟨p, hs, -, hallowed⟩ := samePlan_exec (State.sameOperands_refl i s)
  rw [hs] at h
  cases p with
  | none => cases h
  | some p =>
    obtain ⟨ws, e⟩ := p
    cases h
    exact leavesRest_finish (List.foldlRecOn ws _ (leavesRest_refl i s) fun u hu w hw =>
      leavesRest_apply hu hi (hallowed ws e rfl w hw)) e

/-- Settles O31: what no command writes, and what the instruction's allowed writes leave. -/
theorem otherCommandsChangeOnlyTheirResults : Obligations.OtherCommandsChangeOnlyTheirResults := by
  intro i s t hdata hack heof h
  have hk := (completes_of_exec h).toKeeps
  have hl := leavesRest_exec (by simp [hdata, hack, heof]) h
  exact ⟨hl.regs, hk.wign, hl.valid, hl.drop, fun a => by rw [hk.inBuf], fun a => by rw [hl.outBuf], hl.draws, hk.params,
    hk.pending, hk.inReset, hk.fresh, hk.host, hk.turns⟩

/-! ### Determinism (R121) -/

/-- A pair of values is left as it was, or is the same value twice. -/
def SameWrite {α : Type} (a b a' b' : α) : Prop := (a' = a ∧ b' = b) ∨ a' = b'

/-- `u` and `v` were made from `s` and `t` by the same writes. -/
structure SameWrites (s t u v : State) : Prop where
  reg : ∀ r, r ≠ .status → SameWrite (s.readReg r) (t.readReg r) (u.readReg r) (v.readReg r)
  valid : SameWrite s.valid t.valid u.valid v.valid
  drop : SameWrite s.drop t.drop u.drop v.drop
  outBuf : ∀ a, SameWrite (s.outBuf.byte a) (t.outBuf.byte a) (u.outBuf.byte a) (v.outBuf.byte a)

theorem sameWrites_refl (s t : State) : SameWrites s t s t :=
  ⟨fun _ _ => .inl ⟨rfl, rfl⟩, .inl ⟨rfl, rfl⟩, .inl ⟨rfl, rfl⟩, fun _ => .inl ⟨rfl, rfl⟩⟩

section SameWrites
variable {s t u v : State} (h : SameWrites s t u v)
include h

theorem sameWrites_finish (e : ErrCode) : SameWrites s t (u.finish e) (v.finish e) where
  reg r hr := by
    rw [State.readReg_finish hr, State.readReg_finish hr]
    exact h.reg r hr
  valid := h.valid
  drop := h.drop
  outBuf := h.outBuf

theorem sameWrites_apply (w : Write) : SameWrites s t (w.apply u) (w.apply v) := by
  have hreg (r : Reg) (hr : r ≠ .status) :
      SameWrite (s.readReg r) (t.readReg r) ((w.apply u).readReg r) ((w.apply v).readReg r) := by
    by_cases hm : r ∈ w.regs
    · exact .inr (Write.readReg_apply_of_mem hm u v)
    · rw [Write.readReg_apply_of_not_mem hm hr, Write.readReg_apply_of_not_mem hm hr]
      exact h.reg r hr
  cases w with
  | emit F =>
    refine { h with reg := hreg, outBuf := fun a => ?_ }
    simp only [Write.apply, State.emit_outBuf, Memory.byte_setBytes]
    split
    · exact .inr rfl
    · exact h.outBuf a
  | setResult | clearResult | setResCsum | count => exact { h with reg := hreg }
  | setValid => exact { h with reg := hreg, valid := .inr rfl }
  | setDrop => exact { h with reg := hreg, drop := .inr rfl }

theorem sameWrites_writeAll (ws : List Write) : SameWrites s t (writeAll ws u) (writeAll ws v) := by
  induction ws generalizing u v with
  | nil => exact h
  | cons w ws ih => exact ih (sameWrites_apply h w)

end SameWrites

/-- Settles O32: the same operands give one plan, and a plan makes the same writes in both states. -/
theorem commandsAreFunctionsOfTheirOperands : Obligations.CommandsAreFunctionsOfTheirOperands := by
  intro i s t s' hop h
  obtain ⟨p, hs, ht, -⟩ := samePlan_exec hop
  rw [hs] at h
  cases p with
  | none => cases h
  | some p =>
    obtain ⟨ws, e⟩ := p
    cases h
    have hsame := sameWrites_finish (sameWrites_writeAll (sameWrites_refl s t) ws) e
    exact ⟨_, ht, rfl, hsame.reg, hsame.valid, hsame.drop, hsame.outBuf⟩

/-! ### Accesses between acceptance and completion (R74, R117) -/

theorem writeAll_of_accessed (ws : List Write) (s : State) (g : Bool) (f : Nat) :
    writeAll ws { s with wign := g, fresh := f } = { writeAll ws s with wign := g, fresh := f } := by
  induction ws generalizing s with
  | nil => rfl
  | cons w ws ih =>
    have hw : w.apply { s with wign := g, fresh := f } = { w.apply s with wign := g, fresh := f } := by
      cases w <;> rfl
    exact (congrArg (writeAll ws) hw).trans (ih (w.apply s))

/-- A plan neither reads nor writes what a host access can change while BUSY. -/
theorem runPlan_of_accessed (p : Option (List Write × ErrCode)) (s : State) (g : Bool) (f : Nat) :
    runPlan p { s with wign := g, fresh := f } =
      mapNext (fun t => { t with wign := g, fresh := f }) (runPlan p s) := by
  cases p with
  | none => rfl
  | some p =>
    obtain ⟨ws, e⟩ := p
    exact congrArg (fun t => Host.Outcome.next (State.finish e t)) (writeAll_of_accessed ws s g f)

/-- Settles O34: WIGN and the counter of free values are no operand of any instruction. -/
theorem accessesWhileBusyDoNotChangeTheResult : Obligations.AccessesWhileBusyDoNotChangeTheResult := by
  intro i s as hb
  obtain ⟨g, f, ha⟩ := State.accessAll_of_busy as hb
  have hop : State.SameOperands i s { s with wign := g, fresh := f } := State.sameOperands_refl i s
  obtain ⟨p, hs, ht, -⟩ := samePlan_exec hop
  rw [ha, hs, ht]
  exact runPlan_of_accessed p s g f

end Sys2Proof.Machine
end

section
/-! PROOFS. The frame codec on octet sequences: the round trip, the frames that decode, and the decoder's checks in their
order (R135, R141, R142). -/

namespace Sys2Proof

/-! ### The round trip (R142) -/

/-- Settles O4: one round trip for every kind, with what ACK and EOF frames do not carry left out. -/
theorem encodedFramesDecodeToThemselves : Obligations.EncodedFramesDecodeToThemselves := fun s c P =>
  ⟨decodeFrame_encodeFrame .data s c P, decodeFrame_encodeFrame .ack s c P, decodeFrame_encodeFrame .eof s c P⟩

/-! ### Slices of octets (R11) -/

section Slices
variable (B : List Byte) {i j k : Nat}

theorem slice_append_slice (hij : i ≤ j) (hjk : j ≤ k) :
    slice B i j ++ slice B j k = slice B i k := by
  have hdrop : B.drop j = (B.drop i).drop (j - i) := by rw [List.drop_drop, Nat.add_sub_cancel' hij]
  rw [slice, slice, hdrop, ← List.take_add]
  congr 1
  omega

theorem getElem?_slice (h : k < j - i) : (slice B i j)[k]? = B[i + k]? := by
  rw [slice, List.getElem?_take_of_lt h, List.getElem?_drop]

theorem length_slice_of_le (h : j ≤ B.length) : (slice B i j).length = j - i := by
  rw [slice_length]
  omega

end Slices

/-! ### The fields of a header (R82, R141) -/

section Fields
variable {A : List Byte} {w : Nat} (hw : A.length = w)
include hw

/-- The digits of the value a field spells are the field's octets. -/
theorem digits_ofNat_fieldValue (h : A.all isDigit = true) : digits (BitVec.ofNat w (fieldValue A)) = A :=
  hw ▸ digits_fieldValue A h

/-- A field's value fits the field's width. -/
theorem toNat_ofNat_fieldValue : (BitVec.ofNat w (fieldValue A)).toNat = fieldValue A :=
  Nat.mod_eq_of_lt (hw ▸ fieldValue_lt A)

end Fields

/-! ### The frames that decode (R135, R141) -/

/-- A frame decodes exactly when it is the header of its fields and a rest, which is the payload of a DATA frame and which
ACK and EOF frames drop. -/
theorem decodeFrame_eq_ok_iff {F : List Byte} {f : Frame} :
    decodeFrame F = .ok f ↔
      ∃ R, F = hdr f.seq f.csum f.kind.tagValue ++ R ∧ f.payload = if f.kind = .data then R else [] := by
  constructor
  · intro h
    refine ⟨F.drop 64, ?_, Machine.payload_of_decodeFrame h⟩
    obtain ⟨-, e⟩ | ⟨-, -, e⟩ | ⟨hlen, k, htag, ⟨-, e⟩ | ⟨hdigits, e⟩⟩ := decodeFrame_cases F <;>
      rw [e] at h <;> cases h
    have hfields : slice F 0 32 ++ slice F 32 48 = slice F 0 48 := slice_append_slice F (by omega) (by omega)
    have hheader : slice F 0 48 ++ slice F 48 64 = F.take 64 := slice_append_slice F (by omega) (by omega)
    rw [← hfields, List.all_append, Bool.and_eq_true] at hdigits
    obtain ⟨hseq, hcsum⟩ := hdigits
    simp only [hdr]
    rw [digits_ofNat_fieldValue (length_slice_of_le F (by omega)) hseq,
      digits_ofNat_fieldValue (length_slice_of_le F (by omega)) hcsum, ← FrameKind.tag, ← htag, hfields, hheader,
      List.take_append_drop]
  · rintro ⟨R, rfl, hP⟩
    rw [decodeFrame_hdr, ← hP]

/-- Settles O5: a frame that decodes is the header of its fields and a rest. -/
theorem decodedFrameBeginsWithItsHeader : Obligations.DecodedFrameBeginsWithItsHeader := by
  intro F f h
  obtain ⟨R, rfl, hP⟩ := decodeFrame_eq_ok_iff.1 h
  refine ⟨List.take_left' (length_hdr ..), fun hk => ?_, fun hk => by rw [hP, if_neg hk]⟩
  rw [hP, if_pos hk, hk]
  rfl

/-! ### The decoder's checks in their order (R141) -/

theorem classifyTag_eq_none_iff {T : List Byte} : classifyTag T = none ↔ ∀ k : FrameKind, T ≠ k.tag := by
  constructor
  · rintro h k rfl
    rw [classifyTag_tag] at h
    cases h
  · intro h
    cases hc : classifyTag T with
    | none => rfl
    | some k => exact absurd (tag_of_classifyTag hc) (h k)

/-- The digit check looks at each of the 48 octets before the tag. -/
theorem all_isDigit_iff {F : List Byte} (h : 64 ≤ F.length) :
    (slice F 0 48).all isDigit = true ↔ ∀ j < 48, isDigit (F[j]?.getD 0) = true := by
  have hlen : (slice F 0 48).length = 48 := length_slice_of_le F (by omega)
  have hget {j : Nat} (hj : j < (slice F 0 48).length) : (slice F 0 48)[j] = F[j]?.getD 0 := by
    rw [← List.getD_eq_getElem _ 0 hj, List.getD_eq_getElem?_getD, getElem?_slice F (by omega), Nat.zero_add]
  simp only [List.all_eq_true, List.forall_mem_iff_getElem, hget, hlen]

/-- A field's value, as the sum R141 writes. -/
theorem toNat_field (F : List Byte) (i n : Nat) (h : i + n ≤ F.length) :
    (BitVec.ofNat n (fieldValue (slice F i (i + n)))).toNat =
      ∑ j ∈ Finset.range n, digit (F[i + j]?.getD 0) * 2 ^ (n - 1 - j) := by
  have hlen : (slice F i (i + n)).length = n := by rw [length_slice_of_le F h, Nat.add_sub_cancel_left]
  rw [toNat_ofNat_fieldValue hlen, fieldValue_eq_sum, hlen]
  refine Finset.sum_congr rfl fun j hj => ?_
  rw [getElem?_slice F (by simpa using hj)]

section Checks
variable {F : List Byte}

theorem decodeFrame_of_short (h : F.length < 64) : decodeFrame F = .error .malformedShort := if_pos h

theorem decodeFrame_of_no_tag (h64 : 64 ≤ F.length) (h : ∀ k : FrameKind, slice F 48 64 ≠ k.tag) :
    decodeFrame F = .error .unknownFrameType := by
  simp [decodeFrame, Nat.not_lt.2 h64, classifyTag_eq_none_iff.2 h]

/-- Under a valid tag the digit check decides. -/
theorem decodeFrame_of_tag {k : FrameKind} (h64 : 64 ≤ F.length) (h : slice F 48 64 = k.tag) :
    decodeFrame F =
      if (slice F 0 48).all isDigit then
        .ok { kind := k
              seq := BitVec.ofNat 32 (fieldValue (slice F 0 32))
              csum := BitVec.ofNat 16 (fieldValue (slice F 32 48))
              payload := if k = .data then F.drop 64 else [] }
      else .error .malformedDigit := by
  simp only [decodeFrame, hdrLen, if_neg (Nat.not_lt.2 h64), h, classifyTag_tag]

end Checks

/-- Settles O3: length, tag and digits one after another; a field's value is its digits' sum. -/
theorem decoderChecksLengthThenTagThenDigits : Obligations.DecoderChecksLengthThenTagThenDigits := by
  intro F
  refine ⟨decodeFrame_of_short, decodeFrame_of_no_tag, fun k h64 htag => ?_⟩
  rw [decodeFrame_of_tag h64 htag]
  constructor
  · rintro ⟨j, hj, hbad⟩
    refine if_neg fun hall => ?_
    rw [(all_isDigit_iff h64).1 hall j hj] at hbad
    cases hbad
  · intro hall
    refine ⟨_, if_pos ((all_isDigit_iff h64).2 hall), rfl, ?_, ?_, rfl⟩
    · exact (toNat_field F 0 32 (by omega)).trans (by simp only [Nat.zero_add, Nat.reduceSub])
    · exact toNat_field F 32 16 (by omega)

end Sys2Proof
end

section
/-! PROOFS. The codec commands: what the encoders write, what DECODE and the wire frames report, and the round trip of the
encoders through DECODE (R130 to R132, R140, R142). -/

namespace Sys2Proof.Machine

/-! ### Frames in the buffers (R28, R41) -/

section Frames
variable {s : State} {k : FrameKind} {q : Word} {c : Half} {P : List Byte}

/-- A frame whose payload is within MAX_PAYLOAD is no longer than a buffer (R7). -/
theorem length_encodeFrame_le {p : Params} (hP : P.length ≤ p.maxPayload) :
    (encodeFrame k q c P).length ≤ p.inBufSize := by
  rw [encodeFrame_length, Params.inBufSize]
  split <;> omega

/-- OUT_LEN holds the length of a frame that fits the block. -/
theorem toNat_outLen_emit (hlegal : s.params.legal) (hP : P.length ≤ s.params.maxPayload) :
    (s.emit (encodeFrame k q c P)).outLen.toNat = (encodeFrame k q c P).length := by
  obtain ⟨-, hsize, -⟩ := hlegal
  exact Nat.mod_eq_of_lt ((length_encodeFrame_le hP).trans_lt hsize)

end Frames

/-- A stored frame changes OUT_BUF and OUT_LEN, and completion the flags; nothing else moves. -/
theorem eq_of_emit_finish {F : List Byte} {s t : State} (h : t = (s.emit F).finish .none) :
    t = { s with outBuf := t.outBuf, outLen := t.outLen, errcode := .none, phase := .idle, done := true } := by
  subst h
  rfl

/-- OUT_BUF after a frame was written: its octets from index 0, the old ones above (R41). -/
theorem byte_outBuf_emit (F : List Byte) (s : State) (j : Nat) :
    (s.emit F).outBuf.byte j = if j < F.length then F[j]? else s.outBuf.byte j := by
  simp [Memory.byte_setBytes]

/-! ### The encoders (R130 to R132) -/

theorem exec_encData_of_tooLong {s : State} (h : s.params.maxPayload < s.inCount) :
    exec .encData s = .next (s.finish .lengthError) := if_pos h

theorem exec_encData_of_octets {s : State} {P : List Byte} (hn : s.inCount ≤ s.params.maxPayload)
    (hP : s.inOctets = some P) :
    exec .encData s = .next ((s.emit (encodeFrame .data s.argSeq s.argCsum P)).finish .none) := by
  simp [exec, execEncData, Nat.not_lt.2 hn, hP]

theorem exec_encAck (s : State) :
    exec .encAck s = .next ((s.emit (encodeFrame .ack s.argSeq 0 [])).finish .none) := rfl

theorem exec_encEof (s : State) :
    exec .encEof s = .next ((s.emit (encodeFrame .eof s.argSeq 0 [])).finish .none) := rfl

/-- ENC_DATA without an error has read a payload within MAX_PAYLOAD and stored its frame. -/
theorem exec_encData_success {s t : State} (h : exec .encData s = .next t) (he : t.errcode = .none) :
    ∃ P, P.length = s.inCount ∧ P.length ≤ s.params.maxPayload ∧
      t = (s.emit (encodeFrame .data s.argSeq s.argCsum P)).finish .none := by
  simp only [exec, execEncData] at h
  split at h
  · cases h
    cases he
  · next hn =>
    split at h <;> cases h
    next P hP =>
      have hlen := (State.inOctets_eq_some.1 hP).1
      exact ⟨P, hlen, by omega, rfl⟩

/-- Settles O45: a payload within MAX_PAYLOAD is read and its frame stored; a longer one is refused. -/
theorem encDataWritesADataFrame : Obligations.EncDataWritesADataFrame := by
  intro s hlegal
  refine ⟨exec_encData_of_tooLong, fun P hn hP => ?_⟩
  have hPn : P.length = s.inLen.toNat := Memory.length_of_bytes hP
  have hlen : (encodeFrame .data s.argSeq s.argCsum P).length = 64 + s.inLen.toNat := by
    rw [encodeFrame_length, if_pos rfl, hPn]
  refine ⟨_, exec_encData_of_octets hn hP, ?_, fun j => ?_, eq_of_emit_finish rfl⟩
  · exact (toNat_outLen_emit hlegal (hPn.trans_le hn)).trans hlen
  · rw [State.finish_outBuf, byte_outBuf_emit, hlen]

/-- Settles O46: the checksum field of an ACK frame is written as zero. -/
theorem encAckWritesAnAckFrame : Obligations.EncAckWritesAnAckFrame := by
  intro s
  refine ⟨_, exec_encAck s, congrArg (BitVec.ofNat 32) (length_hdr ..), fun j => ?_, eq_of_emit_finish rfl⟩
  rw [State.finish_outBuf, byte_outBuf_emit, encodeFrame, length_hdr]
  rfl

/-- Settles O47: the checksum field and the tag of an EOF frame are all zero. -/
theorem encEofWritesAnEofFrame : Obligations.EncEofWritesAnEofFrame := by
  intro s
  have hframe : encodeFrame .eof s.argSeq 0 [] = digits s.argSeq ++ List.replicate 32 0x30 := by
    rw [encodeFrame, hdr, List.append_assoc]
    rfl
  refine ⟨_, exec_encEof s, congrArg (BitVec.ofNat 32) (length_hdr ..), fun j => ?_, eq_of_emit_finish rfl⟩
  rw [State.finish_outBuf, byte_outBuf_emit, hframe, List.length_append, length_digits, List.length_replicate]

/-! ### DECODE and the wire frames (R140) -/

theorem exec_decode_of_tooLong {s : State} (h : s.params.inBufSize < s.inCount) :
    exec .decode s = .next (s.finish .lengthError) := if_pos h

/-- DECODE of a frame that fails clears the result registers. -/
theorem exec_decode_of_error {s : State} {e : FrameError} (hn : s.inCount ≤ s.params.inBufSize)
    (hf : s.inFrame = some (.error e)) : exec .decode s = .next (s.clearResult.finish e.errCode) := by
  simp [exec, execDecode, Nat.not_lt.2 hn, hf]

/-- DECODE of a frame that decodes reports its fields. -/
theorem exec_decode_of_ok {s : State} {F : List Byte} {f : Frame} (hn : s.inCount ≤ s.params.inBufSize)
    (hF : s.inBuf.bytes 0 s.inLen.toNat = some F) (hf : decodeFrame F = .ok f) :
    exec .decode s = .next ((s.setResult f).finish .none) := by
  rw [exec_decode_of_frame hn hF (decode_frame_eq_ok_iff.2 ⟨f, hf, rfl⟩), exec_toInstr, runFrame_of_decodeFrame hf,
    State.succeed_eq_finish]

theorem State.inFrame_of_short {s : State} (h : s.inCount < 64) : s.inFrame = some (.error .malformedShort) := if_pos h

/-- RES_PLEN of a frame of `n` octets: those after the header for DATA, none for ACK and EOF (R32, R141). -/
theorem payloadLength_of_decodeFrame {F : List Byte} {f : Frame} {n : Word} (hf : decodeFrame F = .ok f)
    (hn : F.length = n.toNat) : BitVec.ofNat 32 f.payload.length = if f.kind = .data then n - 64 else 0 := by
  obtain ⟨R, rfl, hP⟩ := decodeFrame_eq_ok_iff.1 hf
  rw [List.length_append, length_hdr] at hn
  rw [hP]
  split
  · apply BitVec.eq_of_toNat_eq
    bv_omega
  · rfl

/-- Settles O48: a refused length, a short frame, and the decode of the octets, which is an error or a frame. -/
theorem decodeReportsTheFrame : Obligations.DecodeReportsTheFrame := by
  intro s
  refine ⟨exec_decode_of_tooLong, fun hshort => ?_, fun F hn hF => ⟨fun e he => ?_, fun f hf => ?_⟩⟩
  · have hn : s.inCount ≤ s.params.inBufSize := hshort.le.trans (Nat.le_add_right hdrLen _)
    exact exec_decode_of_error hn (State.inFrame_of_short hshort)
  · exact exec_decode_of_error hn (he ▸ State.inFrame_of_bytes hF)
  · rw [← payloadLength_of_decodeFrame hf (Memory.length_of_bytes hF)]
    exact exec_decode_of_ok hn hF hf

/-- Settles O49: each frame's meaning writes its fields to the result registers and completes. -/
theorem framesReportTheirFields : Obligations.FramesReportTheirFields := fun _ _ _ _ => ⟨rfl, rfl, rfl⟩

/-! ### The round trip through DECODE (R142) -/

/-- DECODE of a copy of a stored frame reports the fields that the encoding carries (R142). -/
theorem exec_decode_of_copied {s t u : State} {k : FrameKind} {q : Word} {c : Half} {P : List Byte}
    (ht : t = (s.emit (encodeFrame k q c P)).finish .none) (hlegal : s.params.legal)
    (hP : P.length ≤ s.params.maxPayload) (hparams : u.params = s.params) (hlen : u.inLen = t.outLen)
    (hcopy : ∀ j < t.outLen.toNat, u.inBuf.byte j = t.outBuf.byte j) :
    exec .decode u = .next ((u.setResult
      { kind := k, seq := q, csum := if k = .data then c else 0, payload := if k = .data then P else [] }).finish
        .none) := by
  have hF : t.outLen.toNat = (encodeFrame k q c P).length := by
    rw [ht, State.finish_outLen, toNat_outLen_emit hlegal hP]
  have hin : u.inLen.toNat = (encodeFrame k q c P).length := by rw [hlen, hF]
  have hbytes : u.inBuf.bytes 0 u.inLen.toNat = some (encodeFrame k q c P) := by
    rw [hin, ← Memory.bytes_setBytes s.outBuf 0 (encodeFrame k q c P)]
    refine Memory.bytes_congr fun j _ hj => ?_
    rw [hcopy j (by omega), ht, State.finish_outBuf, State.emit_outBuf]
  have hn : u.inCount ≤ u.params.inBufSize := hin.trans_le (hparams ▸ length_encodeFrame_le hP)
  exact exec_decode_of_ok hn hbytes (decodeFrame_encodeFrame k q c P)

/-- Settles O51: each encoder stores a frame with its operands, and DECODE of the copy reports them. -/
theorem encodersRoundTripThroughDecode : Obligations.EncodersRoundTripThroughDecode := by
  intro i s t u hlegal hi h he hparams hlen hcopy
  obtain rfl | rfl | rfl := hi
  · obtain ⟨P, hPn, hP, ht⟩ := exec_encData_success h he
    refine ⟨_, exec_decode_of_copied ht hlegal hP hparams hlen hcopy, rfl, rfl, rfl, rfl, ?_⟩
    exact (congrArg (BitVec.ofNat 32) hPn).trans (BitVec.ofNat_toNat ..)
  · have ht := Host.Outcome.next.inj (h.symm.trans (exec_encAck s))
    exact ⟨_, exec_decode_of_copied ht hlegal (Nat.zero_le _) hparams hlen hcopy, rfl, rfl, rfl, rfl, rfl⟩
  · have ht := Host.Outcome.next.inj (h.symm.trans (exec_encEof s))
    exact ⟨_, exec_decode_of_copied ht hlegal (Nat.zero_le _) hparams hlen hcopy, rfl, rfl, rfl, rfl, rfl⟩

end Sys2Proof.Machine
end

section
/-! PROOFS. The checksum on octet sequences: the words, the folded sum in closed form, and the changes the checksum detects
or misses (R160 to R164). -/

namespace Sys2Proof

/-! ### The words of a payload (R160) -/

theorem length_payloadWords (P : List Byte) : (payloadWords P).length = (P.length + 1) / 2 := by
  induction P using payloadWords.induct with
  | case1 | case2 => simp [payloadWords]
  | case3 a b rest ih =>
    simp only [payloadWords, List.length_cons, ih]
    omega

/-- A word's two octets; an octet past the end counts as zero. -/
theorem getElem?_payloadWords {P : List Byte} {k : Nat} (h : k < (P.length + 1) / 2) :
    (payloadWords P)[k]? = some ((P[2 * k]?.getD 0).toNat * 256 + (P[2 * k + 1]?.getD 0).toNat) := by
  induction P using payloadWords.induct generalizing k with
  | case1 => simp at h
  | case2 a =>
    obtain rfl : k = 0 := by simpa using h
    simp [payloadWords]
  | case3 a b rest ih =>
    cases k with
    | zero => simp [payloadWords]
    | succ k =>
      simp only [List.length_cons] at h
      exact ih (k := k) (by omega)

/-- Settles O9: the number of the words, and the octets of each, by induction over the pairs of octets. -/
theorem payloadWordsPairOctets : Obligations.PayloadWordsPairOctets := by
  refine fun P => ⟨length_payloadWords P, fun k hk => ?_⟩
  rw [getElem?_payloadWords hk]
  by_cases hlow : 2 * k + 1 < P.length
  · rw [if_pos hlow]
  · rw [if_neg hlow, List.getElem?_eq_none (Nat.not_lt.1 hlow)]
    rfl

/-! ### The folded sum (R161) -/

theorem foldedSum_append {A : List Byte} (B : List Byte) (h : A.length % 2 = 0) :
    foldedSum (A ++ B) = (payloadWords B).foldl foldAdd (foldedSum A) := by
  rw [foldedSum, payloadWords_append B h, List.foldl_append]
  rfl

/-- Settles O10: the sum of an even payload is the running sum that the next word is added to. -/
theorem foldedSumFoldsEveryAddition : Obligations.FoldedSumFoldsEveryAddition := by
  refine ⟨rfl, fun P => ⟨foldedSum_le P, fun heven a b => ⟨?_, ?_, ?_⟩⟩⟩
  · have := foldedSum_le P
    have := a.isLt
    have := b.isLt
    omega
  · exact foldedSum_append [a, b] heven
  · exact foldedSum_append [a] heven

/-- The 16-bit value that end-around carries bring a sum to: its residue modulo 0xFFFF, taken from 1 to 0xFFFF, and 0 for
the sum 0 alone (R164 item 1). -/
def foldCarries (n : Nat) : Nat := if n = 0 then 0 else (n - 1) % 0xFFFF + 1

theorem foldCarries_of_le {n : Nat} (h : n ≤ 0xFFFF) : foldCarries n = n := by
  unfold foldCarries; split <;> omega

theorem foldCarries_add (m n : Nat) : foldCarries (foldCarries m + n) = foldCarries (m + n) := by
  by_cases hm : m = 0
  · simp [foldCarries, hm]
  · have h1 : foldCarries m = (m - 1) % 0xFFFF + 1 := if_neg hm
    rw [h1, foldCarries, if_neg (by omega), foldCarries, if_neg (by omega)]
    omega

/-- Two sums fold to one value exactly when they agree modulo 0xFFFF and both or neither are zero. -/
theorem foldCarries_eq_iff {m n : Nat} :
    foldCarries m = foldCarries n ↔ m % 0xFFFF = n % 0xFFFF ∧ (m = 0 ↔ n = 0) := by
  unfold foldCarries; split <;> split <;> omega

theorem foldCarries_eq_zero_iff {n : Nat} : foldCarries n = 0 ↔ n = 0 := by
  unfold foldCarries; split <;> omega

theorem foldCarries_eq_max_iff {n : Nat} : foldCarries n = 0xFFFF ↔ n ≠ 0 ∧ 0xFFFF ∣ n := by
  unfold foldCarries; split <;> omega

theorem foldAdd_eq_foldCarries {S w : Nat} (hS : S ≤ 0xFFFF) (hw : w ≤ 0xFFFF) : foldAdd S w = foldCarries (S + w) :=
  foldAdd_eq hS hw

/-- Folding after every addition is folding once at the end. -/
theorem foldl_foldAdd (ws : List Nat) {S : Nat} (hS : S ≤ 0xFFFF) (h : ∀ w ∈ ws, w ≤ 0xFFFF) :
    ws.foldl foldAdd S = foldCarries (S + ws.sum) := by
  induction ws generalizing S with
  | nil => exact (foldCarries_of_le hS).symm
  | cons w ws ih =>
    obtain ⟨hw, hws⟩ := List.forall_mem_cons.1 h
    calc ws.foldl foldAdd (foldAdd S w)
        = foldCarries (foldAdd S w + ws.sum) := ih (foldAdd_le hS hw) hws
      _ = foldCarries (foldCarries (S + w) + ws.sum) := by rw [foldAdd_eq_foldCarries hS hw]
      _ = foldCarries (S + (w :: ws).sum) := by rw [foldCarries_add, List.sum_cons, Nat.add_assoc]

theorem foldedSum_eq_foldCarries (P : List Byte) : foldedSum P = foldCarries (payloadWords P).sum := by
  rw [foldedSum, foldl_foldAdd _ (Nat.zero_le _) fun _ => payloadWords_lt, Nat.zero_add]

/-! ### The checksum and its validation (R162, R163) -/

theorem toNat_computeChecksum (P : List Byte) : (computeChecksum P).toNat = 0xFFFF - foldedSum P :=
  Nat.mod_eq_of_lt (by omega)

/-- A 16-bit value is the checksum exactly when it completes the folded sum to 0xFFFF. -/
theorem eq_computeChecksum_iff {P : List Byte} {r : Half} : r = computeChecksum P ↔ r.toNat + foldedSum P = 0xFFFF := by
  have := foldedSum_le P
  rw [← BitVec.toNat_inj, toNat_computeChecksum]
  omega

/-- The checksum tells payloads apart exactly by their words' sums modulo 0xFFFF, and zero sums from the others. -/
theorem computeChecksum_eq_iff {P Q : List Byte} :
    computeChecksum P = computeChecksum Q ↔
      (payloadWords P).sum % 0xFFFF = (payloadWords Q).sum % 0xFFFF ∧
        ((payloadWords P).sum = 0 ↔ (payloadWords Q).sum = 0) := by
  have := foldedSum_le P
  rw [← foldCarries_eq_iff, ← foldedSum_eq_foldCarries, ← foldedSum_eq_foldCarries, eq_computeChecksum_iff,
    toNat_computeChecksum]
  omega

theorem validateChecksum_iff {P : List Byte} {r : Half} : validateChecksum P r = true ↔ r = computeChecksum P := by
  rw [validateChecksum, decide_eq_true_iff, eq_computeChecksum_iff]
  omega

/-- Settles O11: the folded sum has 16 bits, so its complement is the difference. -/
theorem checksumIsTheComplement : Obligations.ChecksumIsTheComplement := by
  refine fun P => ⟨toNat_computeChecksum P, BitVec.eq_of_toNat_eq ?_⟩
  have := foldedSum_le P
  rw [toNat_computeChecksum, BitVec.toNat_not, BitVec.toNat_ofNat]
  omega

/-- Settles O12: the formula as it stands, and solved for the checksum. -/
theorem validationIsEquality : Obligations.ValidationIsEquality :=
  fun _ _ => ⟨decide_eq_true_iff, validateChecksum_iff⟩

/-! ### The laws of the checksum (R164) -/

/-- Settles O13: the sum of the words is folded once, and it is zero exactly when every word is. -/
theorem checksumClosedForm : Obligations.ChecksumClosedForm := by
  intro P
  have hzero : (∀ w ∈ payloadWords P, w = 0) ↔ (payloadWords P).sum = 0 := List.sum_eq_zero_iff_forall_eq_nat.symm
  have hsum := foldedSum_eq_foldCarries P
  refine ⟨?_, ?_, ?_⟩
  · simp only [hzero]
    exact hsum
  · rw [eq_comm, eq_computeChecksum_iff, hzero, ← foldCarries_eq_zero_iff, ← hsum]
    bv_omega
  · rw [eq_comm, eq_computeChecksum_iff, ← foldCarries_eq_max_iff, ← hsum]
    bv_omega

/-- Settles O14: the sum of the words does not see their order. -/
theorem checksumIgnoresWordOrder : Obligations.ChecksumIgnoresWordOrder := by
  intro P Q hperm
  rw [computeChecksum_eq_iff, hperm.sum_eq]
  exact ⟨rfl, Iff.rfl⟩

/-- What one octet adds to the sum of the words: an octet at an even index is the high octet of its word. -/
def octetWeight (i : Nat) : Nat := if i % 2 = 0 then 256 else 1

theorem octetWeight_zero : octetWeight 0 = 256 := rfl

theorem octetWeight_one : octetWeight 1 = 1 := rfl

theorem octetWeight_add_two (i : Nat) : octetWeight (i + 2) = octetWeight i := by simp [octetWeight]

/-- Replacing an octet moves the sum of the words by the octet's difference times its weight. -/
theorem sum_payloadWords_set {P : List Byte} {i : Nat} (b : Byte) (h : i < P.length) :
    (payloadWords (P.set i b)).sum + octetWeight i * P[i].toNat =
      (payloadWords P).sum + octetWeight i * b.toNat := by
  induction P using payloadWords.induct generalizing i with
  | case1 => simp at h
  | case2 a =>
    obtain rfl : i = 0 := by simpa using h
    simp only [payloadWords, octetWeight_zero, List.set_cons_zero, List.sum_singleton, List.getElem_cons_zero]
    omega
  | case3 a c rest ih =>
    match i with
    | 0 | 1 =>
      simp only [payloadWords, octetWeight_zero, octetWeight_one, List.set_cons_zero, List.set_cons_succ,
        List.sum_cons, List.getElem_cons_zero, List.getElem_cons_succ]
      omega
    | i + 2 =>
      have hrest := ih (i := i) (by simpa using h)
      simp only [payloadWords, octetWeight_add_two, List.set_cons_succ, List.sum_cons, List.getElem_cons_succ]
      omega

/-- Settles O15: the sum of the words moves by at most 255 times 1 or 256, which no multiple of 0xFFFF other than 0 does. -/
theorem singleOctetChangesAreDetected : Obligations.SingleOctetChangesAreDetected := by
  intro P i b hi hb heq
  refine hb ?_
  rw [List.getElem?_eq_getElem hi, Option.some_inj, ← BitVec.toNat_inj]
  obtain ⟨hmod, -⟩ := computeChecksum_eq_iff.1 heq
  have hset := sum_payloadWords_set b hi
  have := P[i].isLt
  have := b.isLt
  unfold octetWeight at hset
  split at hset <;> omega

/-- A zero octet after an odd payload stands where the pad stood. -/
theorem payloadWords_append_zero {P : List Byte} (h : P.length % 2 = 1) : payloadWords (P ++ [0x00]) = payloadWords P := by
  induction P using payloadWords.induct with
  | case1 => simp at h
  | case2 a => simp [payloadWords]
  | case3 a b rest ih =>
    simp only [List.length_cons] at h
    simp only [List.cons_append, payloadWords, ih (by omega)]

/-- The words' sum of two aligned parts with one word between them. -/
theorem sum_payloadWords_insert {A : List Byte} (a b : Byte) (B : List Byte) (h : A.length % 2 = 0) :
    (payloadWords (A ++ [a, b] ++ B)).sum =
      (payloadWords A ++ payloadWords B).sum + (a.toNat * 256 + b.toNat) := by
  rw [List.append_assoc, payloadWords_append _ h]
  simp only [List.cons_append, List.nil_append, payloadWords, List.sum_append, List.sum_cons]
  omega

/-- Settles O16: 0xFFFF more changes neither the residue nor, beside a non-zero word, whether the sum is zero; and a zero
octet changes no word. -/
theorem checksumBlindSpots : Obligations.ChecksumBlindSpots := by
  refine ⟨fun A B heven hword => ?_, fun P hodd => ?_⟩
  · have hne : (payloadWords A ++ payloadWords B).sum ≠ 0 := by
      obtain ⟨w, hw, hw0⟩ := hword
      exact fun hsum => hw0 (List.sum_eq_zero_iff_forall_eq_nat.1 hsum w hw)
    rw [computeChecksum_eq_iff, sum_payloadWords_insert _ _ B heven, sum_payloadWords_insert _ _ B heven]
    bv_omega
  · rw [computeChecksum, computeChecksum, foldedSum, foldedSum, payloadWords_append_zero hodd]

end Sys2Proof
end

section
/-! PROOFS. The checksum commands: CSUM_COMPUTE and CSUM_VALIDATE, one lemma for each exit (R170, R171). -/

namespace Sys2Proof.Machine

section CsumCommands
variable {s : State} {P : List Byte}

theorem exec_csumCompute_of_tooLong (h : s.params.inBufSize < s.inCount) :
    exec .csumCompute s = .next (s.finish .lengthError) := if_pos h

theorem exec_csumCompute_of_octets (hn : s.inCount ≤ s.params.inBufSize) (hP : s.inOctets = some P) :
    exec .csumCompute s = .next ((s.setResCsum (computeChecksum P)).finish .none) := by
  simp [exec, execCsumCompute, Nat.not_lt.2 hn, hP]

theorem exec_csumValidate_of_tooLong (h : s.params.inBufSize < s.inCount) :
    exec .csumValidate s = .next (s.finish .lengthError) := if_pos h

theorem exec_csumValidate_of_match (hn : s.inCount ≤ s.params.inBufSize) (hP : s.inOctets = some P)
    (h : s.argCsum = computeChecksum P) :
    exec .csumValidate s = .next ((s.setResCsum (computeChecksum P)).setValid.finish .none) := by
  simp [exec, execCsumValidate, Nat.not_lt.2 hn, hP, validateChecksum_iff, h]

theorem exec_csumValidate_of_mismatch (hn : s.inCount ≤ s.params.inBufSize) (hP : s.inOctets = some P)
    (h : s.argCsum ≠ computeChecksum P) :
    exec .csumValidate s = .next ((s.setResCsum (computeChecksum P)).finish .corruptedSegment) := by
  simp [exec, execCsumValidate, Nat.not_lt.2 hn, hP, validateChecksum_iff, h]

end CsumCommands

/-- Settles O52: a length above IN_BUF_SIZE is refused; the octets of any other are summed. -/
theorem csumComputeWritesTheChecksum : Obligations.CsumComputeWritesTheChecksum :=
  fun _ => ⟨exec_csumCompute_of_tooLong, fun _ => exec_csumCompute_of_octets⟩

/-- Settles O53: a refused length, a match and a mismatch. -/
theorem csumValidateComparesTheChecksum : Obligations.CsumValidateComparesTheChecksum :=
  fun _ => ⟨exec_csumValidate_of_tooLong, fun _ hn hP =>
    ⟨exec_csumValidate_of_match hn hP, exec_csumValidate_of_mismatch hn hP⟩⟩

end Sys2Proof.Machine
end

section
/-! PROOFS. The loss gate: LOSS_GATE with its two verdicts, the pattern of PERIODIC mode, and who counts and draws (R180
to R190). -/

namespace Sys2Proof.Machine

/-! ### LOSS_GATE (R190) -/

section LossGate
variable {s : State}

/-- LOSS_GATE under a legal configuration counts, draws where the mode says so, and reports the verdict. -/
theorem exec_lossGate_of_configured (h : s.GateConfigured) :
    exec .lossGate s = .next (((s.countConsultation (s.lossCount + 1)).setDrop s.gateDrops).finish .none) := by
  simp only [exec, execLossGate, State.consult_of_configured h, State.succeed]

theorem exec_lossGate_of_not_configured (h : ¬s.GateConfigured) :
    exec .lossGate s = .next (s.finish .invalidConfiguration) := by
  simp only [exec, execLossGate, State.consult_of_not_configured h, State.raise]

theorem exec_lossGate_of_random (hm : s.lossMode = 0) (hP : s.lossThresh.toNat ≤ 2 ^ s.params.wRand) :
    exec .lossGate s = .next { s with
      drop := decide (s.draw ≤ s.lossThresh.toNat), lossCount := s.lossCount + 1, draws := s.draws + 1
      errcode := .none, phase := .idle, done := true } := by
  rw [exec_lossGate_of_configured (.inl ⟨hm, hP⟩), State.gateDrops, if_pos hm]
  simp only [State.countConsultation, if_pos hm]
  rfl

theorem exec_lossGate_of_periodic (hm : s.lossMode = 1) (hK : 1 ≤ s.lossPeriod.toNat) :
    exec .lossGate s = .next { s with
      drop := decide ((s.lossCount.toNat + 1) % 2 ^ 32 % s.lossPeriod.toNat = 0), lossCount := s.lossCount + 1
      errcode := .none, phase := .idle, done := true } := by
  have h0 : s.lossMode ≠ 0 := by simp [hm]
  rw [exec_lossGate_of_configured (.inr ⟨hm, hK⟩), State.gateDrops, if_neg h0]
  simp only [State.countConsultation, if_neg h0]
  rfl

end LossGate

/-- The configurations that `cfg_ok` refuses (R181). -/
theorem State.not_gateConfigured {s : State} (h0 : s.lossMode ≠ 0 ∨ 2 ^ s.params.wRand < s.lossThresh.toNat)
    (h1 : s.lossMode ≠ 1 ∨ s.lossPeriod = 0) : ¬s.GateConfigured := by
  rintro (⟨hm, hP⟩ | ⟨hm, hK⟩)
  · exact h0.elim (absurd hm) (Nat.not_lt.2 hP)
  · exact h1.elim (absurd hm) fun hz => by simp [hz] at hK

/-- Settles O55: the two modes, and a configuration that neither of them allows. -/
theorem lossGateGivesItsVerdict : Obligations.LossGateGivesItsVerdict := fun _ =>
  ⟨exec_lossGate_of_random, exec_lossGate_of_periodic, fun h0 h1 =>
    exec_lossGate_of_not_configured (State.not_gateConfigured h0 h1)⟩

/-- Settles O56: every draw is below 2^W_RAND, and only a draw of 0 is not above 0. -/
theorem randomModeAtItsExtremes : Obligations.RandomModeAtItsExtremes := by
  refine fun s hm => ⟨fun hP => ⟨_, exec_lossGate_of_random hm hP.le, ?_⟩,
    fun hP => ⟨_, exec_lossGate_of_random hm (by simp [hP]), ?_⟩⟩
  · simpa [hP] using (drawsAreInRange s).le
  · simp [hP]

/-! ### The pattern of PERIODIC mode (R183) -/

theorem gateVerdicts_succ {s t : State} (n : Nat) (h : exec .lossGate s = .next t) :
    gateVerdicts (n + 1) s = t.drop :: gateVerdicts n t := by
  simp only [gateVerdicts, h]

/-- From any LOSS_COUNT, as long as it does not wrap, the consultation whose number is a multiple of K drops. -/
theorem gateVerdicts_of_periodic (n : Nat) {s : State} (hm : s.lossMode = 1) (hK : 1 ≤ s.lossPeriod.toNat)
    (hn : s.lossCount.toNat + n < 2 ^ 32) :
    gateVerdicts n s =
      (List.range n).map fun m => decide ((s.lossCount.toNat + m + 1) % s.lossPeriod.toNat = 0) := by
  induction n generalizing s with
  | zero => rfl
  | succ n ih =>
    have hcount : (s.lossCount + 1).toNat = s.lossCount.toNat + 1 := by
      rw [State.count_succ]
      exact Nat.mod_eq_of_lt (by omega)
    refine (gateVerdicts_succ n (exec_lossGate_of_periodic hm hK)).trans ?_
    rw [List.range_succ_eq_map, List.map_cons, List.map_map]
    congr 1
    · rw [Nat.mod_eq_of_lt (b := 2 ^ 32) (by omega), Nat.add_zero]
    · rw [ih (by exact hm) (by exact hK) (by rw [hcount]; omega)]
      refine List.map_congr_left fun m _ => ?_
      simp only [hcount, Function.comp, Nat.succ_eq_add_one, Nat.add_assoc, Nat.add_comm 1]

/-- Settles O57: the count of the consultations starts at 0. -/
theorem periodicModeDropsEveryKth : Obligations.PeriodicModeDropsEveryKth := by
  intro n s hm hK h0 hn
  have hc : s.lossCount.toNat = 0 := by simp [h0]
  simpa [hc] using gateVerdicts_of_periodic n hm hK (by omega)

/-! ### Who counts and draws (R180, R184) -/

/-- LOSS_COUNT and the draws stand as the consultation from `s` leaves them (R182 to R184). -/
def Counted (s t : State) : Prop := t.lossCount = s.lossCount + 1 ∧ t.draws = s.drawsAfter

/-- What follows the gate in RX_FRAME neither counts nor draws. -/
theorem counted_receive (d : Except FrameError Frame) (s : State) :
    Counted s ((s.countConsultation (s.lossCount + 1)).receive d) := by
  unfold State.receive
  cases d with
  | error e => exact ⟨rfl, rfl⟩
  | ok f =>
    dsimp only
    split
    · split <;> exact ⟨rfl, rfl⟩
    · exact ⟨rfl, rfl⟩
    · exact ⟨rfl, rfl⟩

theorem counted_exec_rxFrame {s t : State} (hn : s.inCount ≤ s.params.inBufSize) (hg : s.GateConfigured)
    (h : exec .rxFrame s = .next t) : Counted s t := by
  simp only [exec, execRxFrame, if_neg (Nat.not_lt.2 hn), State.consult_of_configured hg] at h
  split at h
  · split at h <;> cases h
    exact ⟨rfl, rfl⟩
  · cases h
    split
    · exact ⟨rfl, rfl⟩
    · exact counted_receive _ s

theorem counted_exec {i : Instr} {s t : State} (hc : Consults i s) (h : exec i s = .next t) : Counted s t := by
  obtain ⟨hg, rfl | ⟨rfl, hn⟩⟩ := hc
  · rw [exec_lossGate_of_configured hg] at h
    cases h
    exact ⟨rfl, rfl⟩
  · exact counted_exec_rxFrame hn hg h

/-- Of the writes, the gate's count alone moves LOSS_COUNT or the draws, and only an instruction that consults is
allowed it. -/
theorem uncounted_apply {i : Instr} {s : State} {w : Write} (hc : ¬Consults i s) (hw : w.Allowed i s) (u : State) :
    (w.apply u).lossCount = u.lossCount ∧ (w.apply u).draws = u.draws := by
  cases w with
  | count => exact absurd hw hc
  | _ => exact ⟨rfl, rfl⟩

theorem uncounted_exec {i : Instr} {s t : State} (hc : ¬Consults i s) (h : exec i s = .next t) :
    t.lossCount = s.lossCount ∧ t.draws = s.draws := by
  obtain ⟨p, hs, -, hallowed⟩ := samePlan_exec (State.sameOperands_refl i s)
  rw [hs] at h
  cases p with
  | none => cases h
  | some p =>
    obtain ⟨ws, e⟩ := p
    cases h
    exact List.foldlRecOn (motive := fun u => u.lossCount = s.lossCount ∧ u.draws = s.draws) ws _ ⟨rfl, rfl⟩
      fun u ⟨hcount, hdraws⟩ w hw =>
        have ⟨hcount', hdraws'⟩ := uncounted_apply hc (hallowed ws e rfl w hw) u
        ⟨hcount'.trans hcount, hdraws'.trans hdraws⟩

/-- Settles O58: a consultation counts, and nothing else an instruction writes moves the count or the draws. -/
theorem onlyConsultationsCountAndDraw : Obligations.OnlyConsultationsCountAndDraw := by
  refine fun i s t h => ⟨fun hc => ?_, fun hc => uncounted_exec hc h⟩
  obtain ⟨hcount, hdraws⟩ := counted_exec hc h
  exact ⟨hcount ▸ State.count_succ _, hdraws⟩

end Sys2Proof.Machine
end

section
/-! PROOFS. The receive path: RX_FRAME, one lemma for each exit, and its steps as LOSS_GATE, DECODE and CSUM_VALIDATE
(R200 to R202). -/

namespace Sys2Proof.Machine

/-! ### The payload octets of IN_BUF (R32) -/

/-- A range that reads as octets reads, from inside it, as the rest of them. -/
theorem Memory.bytes_drop {m : Memory} {i n : Nat} {B : List Byte} (h : m.bytes i n = some B) (k : Nat) :
    m.bytes (i + k) (n - k) = some (B.drop k) := by
  obtain ⟨hlen, hbytes⟩ := Memory.bytes_eq_some.1 h
  refine Memory.bytes_eq_some.2 ⟨by rw [List.length_drop, hlen], fun j hj => ?_⟩
  rw [Nat.add_assoc, hbytes _ (by omega), List.getElem?_drop]

/-- The payload of a DATA frame in IN_BUF stands after the 64 octets of its header. -/
theorem State.bytes_payload_of_inFrame {s : State} {f : Frame} (hf : s.inFrame = some (.ok f)) (hk : f.kind = .data) :
    s.inBuf.bytes 64 (s.inCount - 64) = some f.payload := by
  obtain ⟨-, h⟩ | ⟨-, -, h⟩ | ⟨-, F, hF, h⟩ := s.inFrame_cases <;> rw [hf] at h
  · cases h
  · cases h
  · rw [payload_of_decodeFrame (Option.some.inj h).symm, if_pos hk]
    exact Nat.zero_add 64 ▸ Memory.bytes_drop hF 64

/-- RES_PLEN of a DATA frame in IN_BUF is the count of the octets after its header. -/
theorem State.toNat_payloadLength_of_inFrame {s : State} {f : Frame} (hf : s.inFrame = some (.ok f))
    (hk : f.kind = .data) : (BitVec.ofNat 32 f.payload.length).toNat = s.inCount - 64 := by
  rw [Memory.length_of_bytes (s.bytes_payload_of_inFrame hf hk), BitVec.toNat_ofNat]
  exact Nat.mod_eq_of_lt ((Nat.sub_le ..).trans_lt s.inLen.isLt)

/-! ### What follows the gate (R200, steps 2 and 3) -/

section Receive
variable {f : Frame} (s : State)

theorem receive_error (e : FrameError) : s.receive (.error e) = s.clearResult.finish e.errCode := rfl

theorem receive_of_not_data (hk : f.kind ≠ .data) : s.receive (.ok f) = (s.setResult f).finish .none := by
  obtain ⟨k, q, c, P⟩ := f
  cases k with
  | data => exact absurd rfl hk
  | ack | eof => rfl

theorem receive_of_match (hk : f.kind = .data) (hc : f.csum = computeChecksum f.payload) :
    s.receive (.ok f) = (s.setResult f).setValid.finish .none := by
  simp [State.receive, hk, validateChecksum_iff.2 hc]

theorem receive_of_mismatch (hk : f.kind = .data) (hc : f.csum ≠ computeChecksum f.payload) :
    s.receive (.ok f) = (s.setResult f).finish .corruptedSegment := by
  simp [State.receive, hk, mt validateChecksum_iff.1 hc]

/-- A frame that decodes is reported; VALID and ERRCODE show the check of a DATA frame's checksum. -/
theorem receive_ok (hv : s.valid = false) :
    s.receive (.ok f) = { s.setResult f with
      valid := decide (f.kind = .data ∧ f.csum = computeChecksum f.payload)
      errcode := if f.kind = .data ∧ f.csum ≠ computeChecksum f.payload then .corruptedSegment else .none
      phase := .idle, done := true } := by
  by_cases hk : f.kind = .data
  · by_cases hc : f.csum = computeChecksum f.payload
    · rw [receive_of_match s hk hc, decide_eq_true ⟨hk, hc⟩, if_neg fun h => h.2 hc]
      rfl
    · rw [receive_of_mismatch s hk hc, decide_eq_false fun h => hc h.2, if_pos ⟨hk, hc⟩, ← hv]
      rfl
  · rw [receive_of_not_data s hk, decide_eq_false fun h => hk h.1, if_neg fun h => hk h.1, ← hv]
    rfl

/-- What follows the gate ends the command itself, so an end before it is not seen. -/
theorem receive_finish (e : ErrCode) (d : Except FrameError Frame) : (s.finish e).receive d = s.receive d := by
  cases d with
  | error => rfl
  | ok f =>
    by_cases hk : f.kind = .data
    · by_cases hc : f.csum = computeChecksum f.payload
      · rw [receive_of_match _ hk hc, receive_of_match _ hk hc]
        rfl
      · rw [receive_of_mismatch _ hk hc, receive_of_mismatch _ hk hc]
        rfl
    · rw [receive_of_not_data _ hk, receive_of_not_data _ hk]
      rfl

end Receive

/-! ### The exits of RX_FRAME (R200, R201) -/

section RxFrame
variable {s : State}

theorem exec_rxFrame_of_tooLong (h : s.params.inBufSize < s.inCount) :
    exec .rxFrame s = .next (s.finish .lengthError) := if_pos h

variable (hn : s.inCount ≤ s.params.inBufSize)
include hn

theorem exec_rxFrame_of_not_configured (hg : ¬s.GateConfigured) :
    exec .rxFrame s = .next (s.finish .invalidConfiguration) := by
  simp [exec, execRxFrame, Nat.not_lt.2 hn, State.consult_of_not_configured hg]

/-- A dropped frame ends the command, whatever IN_BUF holds. -/
theorem exec_rxFrame_of_drops (hg : s.GateConfigured) (hd : s.gateDrops = true) :
    exec .rxFrame s = .next (s.countConsultation (s.lossCount + 1)).dropFrame := by
  simp only [exec, execRxFrame, if_neg (Nat.not_lt.2 hn), State.consult_of_configured hg, hd, if_true]
  cases s.inFrame <;> rfl

theorem exec_rxFrame_of_passes {d : Except FrameError Frame} (hg : s.GateConfigured) (hd : s.gateDrops = false)
    (hf : s.inFrame = some d) :
    exec .rxFrame s = .next ((s.countConsultation (s.lossCount + 1)).receive d) := by
  simp [exec, execRxFrame, Nat.not_lt.2 hn, State.consult_of_configured hg, hd, hf]

end RxFrame

/-- Settles O59: a refused length, a refused configuration, a drop, a short frame, and the decode of the octets; a frame
that decodes is checked if it is a DATA frame. -/
theorem rxFrameOutcomes : Obligations.RxFrameOutcomes := by
  intro s hvalid _
  refine ⟨exec_rxFrame_of_tooLong, exec_rxFrame_of_not_configured, exec_rxFrame_of_drops, fun hshort hg hd => ?_,
    fun F hn hg hd hF => ⟨fun e he => ?_, fun f hf => ?_⟩⟩
  · have hn : s.inCount ≤ s.params.inBufSize := hshort.le.trans (Nat.le_add_right hdrLen _)
    exact exec_rxFrame_of_passes hn hg hd (State.inFrame_of_short hshort)
  · exact exec_rxFrame_of_passes hn hg hd (he ▸ State.inFrame_of_bytes hF)
  · rw [exec_rxFrame_of_passes hn hg hd (hf ▸ State.inFrame_of_bytes hF), receive_ok (s.countConsultation _) hvalid,
      ← payloadLength_of_decodeFrame hf (Memory.length_of_bytes hF)]
    rfl

/-! ### RX_FRAME as a sequence of commands (R202) -/

section Sequence
variable {s g : State}

/-- LOSS_GATE's result tells how the gate answered. -/
theorem exec_lossGate_cases (h : exec .lossGate s = .next g) :
    (¬s.GateConfigured ∧ g = s.finish .invalidConfiguration) ∨
      (s.GateConfigured ∧ g = ((s.countConsultation (s.lossCount + 1)).setDrop s.gateDrops).finish .none) := by
  by_cases hg : s.GateConfigured
  · exact .inr ⟨hg, Host.Outcome.next.inj (h.symm.trans (exec_lossGate_of_configured hg))⟩
  · exact .inl ⟨hg, Host.Outcome.next.inj (h.symm.trans (exec_lossGate_of_not_configured hg))⟩

variable (hn : s.inCount ≤ s.params.inBufSize) (h : exec .lossGate s = .next g)
include hn h

theorem exec_rxFrame_of_lossGate_error (he : g.errcode ≠ .none) : exec .rxFrame s = .next g := by
  obtain ⟨hg, rfl⟩ | ⟨-, rfl⟩ := exec_lossGate_cases h
  · exact exec_rxFrame_of_not_configured hn hg
  · exact absurd rfl he

theorem exec_rxFrame_of_lossGate_drop (he : g.errcode = .none) (hd : g.drop = true) :
    exec .rxFrame s = .next g.clearResult := by
  obtain ⟨-, rfl⟩ | ⟨hg, rfl⟩ := exec_lossGate_cases h
  · cases he
  · have hdrops : s.gateDrops = true := hd
    rw [exec_rxFrame_of_drops hn hg hdrops, hdrops]
    rfl

/-- LOSS_GATE that passes the frame leaves what RX_FRAME goes on with; DROP was clear already. -/
theorem exec_rxFrame_of_lossGate_pass {d : Except FrameError Frame} (hdrop : s.drop = false) (he : g.errcode = .none)
    (hd : g.drop = false) (hf : s.inFrame = some d) : exec .rxFrame s = .next (g.receive d) := by
  obtain ⟨-, rfl⟩ | ⟨hg, rfl⟩ := exec_lossGate_cases h
  · cases he
  · have hdrops : s.gateDrops = false := hd
    rw [exec_rxFrame_of_passes hn hg hdrops hf, receive_finish, hdrops, ← hdrop]
    rfl

end Sequence

/-- DECODE's result is that of a failed decode or of the frame that IN_BUF holds. -/
theorem exec_decode_cases {s t : State} (hn : s.inCount ≤ s.params.inBufSize) (h : exec .decode s = .next t) :
    (∃ e, s.inFrame = some (.error e) ∧ t = s.clearResult.finish e.errCode) ∨
      (∃ f, s.inFrame = some (.ok f) ∧ t = (s.setResult f).finish .none) := by
  cases hf : s.inFrame with
  | none => simp [exec, execDecode, Nat.not_lt.2 hn, hf] at h
  | some d =>
    cases d with
    | error e => exact .inl ⟨e, rfl, Host.Outcome.next.inj (h.symm.trans (exec_decode_of_error hn hf))⟩
    | ok f =>
      obtain ⟨F, hF, -⟩ := State.decodeFrame_of_inFrame hf
      simp only [exec, execDecode, if_neg (Nat.not_lt.2 hn), hf, runFrame_of_decodeFrame hF] at h
      exact .inr ⟨f, rfl, (Host.Outcome.next.inj h).symm⟩

/-- CSUM_VALIDATE of a payload against the checksum of its DATA frame gives RX_FRAME's VALID and ERRCODE. -/
theorem exec_csumValidate_of_payload {u g : State} {f : Frame} (hn : u.inCount ≤ u.params.inBufSize)
    (hP : u.inOctets = some f.payload) (hc : u.argCsum = f.csum) (hv : u.valid = g.valid) (hk : f.kind = .data) :
    ∃ v, exec .csumValidate u = .next v ∧
      g.receive (.ok f) = { (g.setResult f).finish .none with valid := v.valid, errcode := v.errcode } := by
  by_cases hm : f.csum = computeChecksum f.payload
  · exact ⟨_, exec_csumValidate_of_match hn hP (hc.trans hm), receive_of_match g hk hm⟩
  · refine ⟨_, exec_csumValidate_of_mismatch hn hP (hc ▸ hm), ?_⟩
    rw [receive_of_mismatch g hk hm, State.finish_valid, State.setResCsum_valid, hv]
    rfl

/-- Settles O60: the gate's error or drop ends the command; after a pass the decode does, unless it gave a DATA frame,
whose payload octets are then checked. -/
theorem rxFrameIsGateThenDecodeThenValidate : Obligations.RxFrameIsGateThenDecodeThenValidate := by
  intro s g hn hdrop hgate
  refine ⟨exec_rxFrame_of_lossGate_error hn hgate, exec_rxFrame_of_lossGate_drop hn hgate, fun he hd d hdecode => ?_⟩
  have hkeeps := completes_of_exec hgate
  have hin : g.inFrame = s.inFrame := State.SameInput.inFrame_eq ⟨hkeeps.inLen.symm, fun _ _ => by rw [hkeeps.inBuf]⟩
  have hng : g.inCount ≤ g.params.inBufSize := by
    rw [State.inCount, hkeeps.inLen, hkeeps.params]
    exact hn
  obtain ⟨e, hf, rfl⟩ | ⟨f, hf, rfl⟩ := exec_decode_cases hng hdecode <;>
    have hrx := exec_rxFrame_of_lossGate_pass hn hgate hdrop he hd (hin ▸ hf)
  · rw [receive_error] at hrx
    exact ⟨fun _ => hrx, nofun⟩
  · refine ⟨fun hk => ?_, fun _ hk u hparams huvalid hcsum hlen hbytes => ?_⟩
    · have hk : f.kind ≠ .data := by simpa using hk
      rw [hrx, receive_of_not_data g hk]
    · have hk : f.kind = .data := by simpa using hk
      have hvalid : g.valid = s.valid := (leavesRest_exec (by simp) hgate).valid nofun nofun
      have hplen := s.toNat_payloadLength_of_inFrame (hin ▸ hf) hk
      have hcount : u.inCount = s.inCount - 64 := (congrArg BitVec.toNat hlen).trans hplen
      have hoctets : u.inOctets = some f.payload := by
        rw [State.finish_resPlen, State.setResult_resPlen, hplen, s.bytes_payload_of_inFrame (hin ▸ hf) hk] at hbytes
        rw [State.inOctets, hcount, hbytes]
      have hnu : u.inCount ≤ u.params.inBufSize := by
        rw [hcount, hparams]
        exact (Nat.sub_le ..).trans hn
      obtain ⟨v, hv, hreceive⟩ := exec_csumValidate_of_payload hnu hoctets hcsum (huvalid.trans hvalid.symm) hk
      exact ⟨v, hv, hrx.trans (congrArg _ hreceive)⟩

end Sys2Proof.Machine
end

section
/-! PROOFS. The reset input: its two movements, and the accesses and steps while it is asserted (R250, R251, U18). -/

namespace Sys2Proof.Machine

/-! ### A movement of the reset input (R250, R251) -/

/-- The reset column of R22 does not depend on the level of the reset input. -/
theorem State.readReg_resetBlock_inReset {s : State} (hp : s.params.legal) (level : Bool) (r : Reg) :
    { s.resetBlock with inReset := level }.readReg r = resetValue s.params r := by
  rw [← State.readReg_resetWith hp]
  cases r <;> rfl

theorem State.nextTurn_of_turns {s : State} {a : Turn} {ts : List Turn} (h : s.turns = a :: ts) :
    s.nextTurn = some a := by
  simp [State.nextTurn, h]

theorem step_of_nextTurn_assertReset {s : State} (h : s.nextTurn = some .assertReset) :
    step s = .next { s.popTurn.resetBlock with inReset := true } := by
  simp [step, runTurn, h, State.assertReset]

theorem step_of_nextTurn_releaseReset {s : State} (h : s.nextTurn = some .releaseReset) (hr : s.inReset = true) :
    step s = .next { s.popTurn.resetBlock with inReset := false } := by
  simp [step, runTurn, h, State.releaseReset, hr]

/-- Both movements reset the block in whatever phase it is; they differ in the new level only. -/
theorem step_of_reset_moves {s : State} {a : Turn} (h : s.nextTurn = some a)
    (hmove : a = .assertReset ∨ (a = .releaseReset ∧ s.inReset = true)) :
    step s = .next { s.popTurn.resetBlock with inReset := decide (a = .assertReset) } := by
  obtain rfl | ⟨rfl, hr⟩ := hmove
  · exact step_of_nextTurn_assertReset h
  · exact step_of_nextTurn_releaseReset h hr

/-- Settles O18: the state after either movement is the reset block, with the next turns and the new level. -/
theorem resetInputAbandonsAndRestores : Obligations.ResetInputAbandonsAndRestores := by
  intro s a ts hp hturns hmove
  refine ⟨_, step_of_reset_moves (State.nextTurn_of_turns hturns) hmove, rfl, rfl, fun r => ?_, fun _ => ⟨rfl, rfl⟩,
    rfl, rfl, rfl, rfl, congrArg List.tail hturns⟩
  rw [State.regRead_offset]
  exact State.readReg_resetBlock_inReset (s := s.popTurn) hp _ r

/-! ### While the reset input is asserted (U18) -/

theorem hostTurn_of_access_inReset {s : State} {a : Access} {x : Option Nat} (hr : s.inReset = true)
    (h : (s.host.action s.fresh).1 = .access a x) : hostTurn s = .fault .accessInReset := by
  simp [hostTurn, h, hr]

theorem State.nextTurn_of_inReset {s : State} (hr : s.inReset = true) (h : s.turns = []) : s.nextTurn = none := by
  simp [State.nextTurn, h, hr]

theorem step_of_nextTurn_none {s : State} (h : s.nextTurn = none) : step s = .next s := by
  simp [step, runTurn, h]

/-- Settles O44: the host's access faults, and without a turn laid down the block waits. -/
theorem noAccessWhileInReset : Obligations.NoAccessWhileInReset := by
  refine fun s hr => ⟨fun a x hturn ha => ?_, fun h => step_of_nextTurn_none (State.nextTurn_of_inReset hr h)⟩
  rw [step_of_nextTurn_host hturn]
  exact hostTurn_of_access_inReset (s := s.popTurn) hr ha

end Sys2Proof.Machine
end
